-- ==== Sys2Proof/Word.lean ====
section
/-! DEFINITION. The word types of the block (00_scope.md R9: bytes are 8 bits, every quantity unsigned). -/

namespace Sys2Proof

/-- A byte (R9). -/
abbrev Byte := BitVec 8

/-- A 24-bit flash byte address (R7 `ADDR_W`). -/
abbrev Addr := BitVec 24

/-- A 32-bit register value (R20). -/
abbrev Word := BitVec 32

/-- A host command word (R70). -/
abbrev HostWord := BitVec 58

end Sys2Proof
end

