-- ==== Sys2Proof/Config.lean ====
section
/-! DEFINITION. What an implementation fixes: the constants of R7, the parameters of R8 with their
constraints, the reference configuration CFG0, and the free values. -/

namespace Sys2Proof

/-- `PAGE_SIZE_CONST` (R7). -/
abbrev pageSizeConst : Word := 256
/-- `SECTOR_SMALL` (R7). -/
abbrev sectorSmall : Word := 4096
/-- `SECTOR_LARGE` (R7). -/
abbrev sectorLarge : Word := 65536
/-- `CAP_64K` (R7). -/
abbrev cap64K : Byte := 0x20

/-- A transport error value. Which of them are values of the instance's type `TERR` is `Config.hasTerr` (R8, D30;
log 21). -/
abbrev Terr := Nat

/-- The parameters of R8, each under its own name. -/
structure Config where
  /-- `OPC_IDENT` -/
  opcIdent : Byte
  /-- `OPC_READ` -/
  opcRead : Byte
  /-- `OPC_PROG` -/
  opcProg : Byte
  /-- `OPC_ERASE4K` -/
  opcErase4K : Byte
  /-- `OPC_ERASE64K` -/
  opcErase64K : Byte
  /-- `OPC_RDSR` -/
  opcRdsr : Byte
  /-- `DUMMY_VALUE` -/
  dummyValue : Byte
  /-- `BUSY_MASK` -/
  busyMask : Byte
  /-- `ERR_MASK` -/
  errMask : Byte
  /-- `ERR_EXPECT` -/
  errExpect : Byte
  /-- `ID_LEN` -/
  idLen : Nat
  /-- `MFR_INDEX` -/
  mfrIndex : Nat
  /-- `CAP_INDEX` -/
  capIndex : Nat
  /-- `MFR_EXPECTED` -/
  mfrExpected : Byte
  /-- `TOTAL_SIZE_CONST` -/
  totalSizeConst : Word
  /-- `MAX_XFER` -/
  maxXfer : Word
  /-- `PROG_BUDGET` -/
  progBudget : Word
  /-- `ERASE_BUDGET` -/
  eraseBudget : Word
  /-- `TERR`, a type, by how many values it has; `none` is a type of infinitely many (log 21) -/
  terrSize : Option Nat
  deriving DecidableEq, Repr

/-- The six opcodes in the order of R8. -/
def Config.opcodes (c : Config) : List Byte :=
  [c.opcIdent, c.opcRead, c.opcProg, c.opcErase4K, c.opcErase64K, c.opcRdsr]

/-- The bytes of a list are pairwise distinct. -/
def distinct : List Byte → Bool
  | [] => true
  | b :: bs => bs.all (fun a => a != b) && distinct bs

/-- Exactly one bit of a byte is set. -/
def oneBit (m : Byte) : Bool := m != 0#8 && m &&& (m - 1#8) == 0#8

/-- The constraints of R8, one entry each. -/
def Config.constraints (c : Config) : List Bool :=
  [ distinct c.opcodes
  , oneBit c.busyMask
  , c.errMask &&& c.busyMask == 0#8
  , c.errExpect &&& ~~~c.errMask == 0#8
  , c.idLen == 3 || c.idLen == 4
  , c.mfrIndex == 0 || c.mfrIndex == 1
  , decide (c.mfrIndex < c.idLen)
  , decide (c.capIndex < c.idLen)
  , c.capIndex != c.mfrIndex
  , decide (0 < c.maxXfer.toNat)
  , decide (1 ≤ c.progBudget.toNat)
  , decide (c.progBudget.toNat < c.eraseBudget.toNat)
  , c.terrSize != some 0 ]

/-- A configuration that meets every constraint of R8; one that breaks a constraint is no instance of FCF
(U10). -/
def Config.wf (c : Config) : Bool := c.constraints.all fun b => b

/-- CFG0, the reference configuration (R8, D36). DESIGN CHOICE (log 1): it is the configuration of
`State.reset`; no statement rests on its values. -/
def cfg0 : Config where
  opcIdent := 0x9F
  opcRead := 0x0B
  opcProg := 0x02
  opcErase4K := 0x20
  opcErase64K := 0xD8
  opcRdsr := 0x05
  dummyValue := 0x00
  busyMask := 0x01
  errMask := 0x00
  errExpect := 0x00
  idLen := 3
  mfrIndex := 0
  capIndex := 2
  mfrExpected := 0xEF
  totalSizeConst := 0x00200000
  maxXfer := 251
  progBudget := 4
  eraseBudget := 8
  terrSize := some 1

/-- `e : TERR`: a type of `n` values has the first `n` of them (log 21). FCF never asks; the transport's contract
does (R55). -/
def Config.hasTerr (c : Config) (e : Terr) : Bool :=
  match c.terrSize with
  | some n => decide (e < n)
  | none => true

/-- The free bytes: the `k`-th one drawn. Nothing constrains it (U2, U7; log 8, log 9). -/
opaque Config.freeByte : Nat → Byte

/-- The free numbers: the `k`-th one drawn. Nothing constrains it (U7; log 9). -/
opaque Config.freeNat : Nat → Nat

/-- The free contents of FLASH, from address 0: the `k`-th drawn. Nothing constrains them (U3; log 31). -/
opaque Config.freeFlash : Nat → List Byte

end Sys2Proof
end

