-- ==== Sys2Proof/Syntax.lean ====
section
/-! DEFINITION. The ten instructions of the opcode table, at the two levels of R2. -/

namespace Sys2Proof

/-- One constructor per row of the opcode table. The first four are host commands, whose fields are
the fields of the command word (R70). The last six are command frames, whose field is the frame's
address (R73 to R77). INIT's two fields are part of its word and have no meaning (R72; log 24). The
data length of FREAD and PROG and the bytes of PROG are no part of the frame: they are the chunk in
flight (R79), which State holds. -/
inductive Instr where
  | init (offset : Addr) (length : Word)
  | read (offset : Addr) (length : Word)
  | write (offset : Addr) (length : Word)
  | erase (offset : Addr) (length : Word)
  | ident
  | fread (addr : Addr)
  | prog (addr : Addr)
  | erase4k (addr : Addr)
  | erase64k (addr : Addr)
  | rdsr
  deriving DecidableEq, Repr

/-- The two levels of R2. -/
inductive Level where
  | hostCommand
  | commandFrame
  deriving DecidableEq, Repr

/-- The level of an instruction (R2, R81). -/
def Instr.level : Instr → Level
  | .init _ _ => .hostCommand
  | .read _ _ => .hostCommand
  | .write _ _ => .hostCommand
  | .erase _ _ => .hostCommand
  | .ident => .commandFrame
  | .fread _ => .commandFrame
  | .prog _ => .commandFrame
  | .erase4k _ => .commandFrame
  | .erase64k _ => .commandFrame
  | .rdsr => .commandFrame

/-- The mnemonic of an instruction (R84, D37). -/
def Instr.mnemonic : Instr → String
  | .init _ _ => "INIT"
  | .read _ _ => "READ"
  | .write _ _ => "WRITE"
  | .erase _ _ => "ERASE"
  | .ident => "IDENT"
  | .fread _ => "FREAD"
  | .prog _ => "PROG"
  | .erase4k _ => "ERASE4K"
  | .erase64k _ => "ERASE64K"
  | .rdsr => "RDSR"

/-- The textual syntax of a host command, numbers in decimal (R84). A frame has no call syntax. -/
def Instr.call : Instr → Option String
  | .init _ _ => some "init()"
  | .read o l => some ("read(" ++ toString o.toNat ++ ", " ++ toString l.toNat ++ ", out_buffer)")
  | .write o l => some ("write(" ++ toString o.toNat ++ ", " ++ toString l.toNat ++ ", in_buffer)")
  | .erase o l => some ("erase(" ++ toString o.toNat ++ ", " ++ toString l.toNat ++ ")")
  | .ident => none
  | .fread _ => none
  | .prog _ => none
  | .erase4k _ => none
  | .erase64k _ => none
  | .rdsr => none

end Sys2Proof
end

