-- ==== Sys2Proof/WellFormed.lean ====
section
/-! DEFINITION. The operands each instruction admits. Field widths are in the types; what is left is
the alignment of the two erase frames. -/

namespace Sys2Proof

/-- `addr` is a multiple of a sector size (R104, R105). -/
def Addr.aligned (sector : Word) (addr : Addr) : Bool := addr.toNat % sector.toNat == 0

/-- A well-formed instruction. A host command is well-formed at every offset and length (R71, R82); an
erase frame carries the address of a sector (R104 "a multiple of 4096", R105 "a multiple of 65536"). -/
def Instr.wf : Instr → Bool
  | .init _ _ => true
  | .read _ _ => true
  | .write _ _ => true
  | .erase _ _ => true
  | .ident => true
  | .fread _ => true
  | .prog _ => true
  | .erase4k addr => Addr.aligned sectorSmall addr
  | .erase64k addr => Addr.aligned sectorLarge addr
  | .rdsr => true

end Sys2Proof
end

