-- ==== Sys2Proof/Decode.lean ====
section
/-! DEFINITION. The decoder and, after it, the encoder: host command words (30_encoding.md R70, R71) and
command frames (R73 to R79). -/

namespace Sys2Proof

/-- What is decoded: a host command word, which is a number (R70), or the bytes of a command frame, the
first sent first (R73). -/
inductive Code where
  | host (w : HostWord)
  | frame (bytes : List Byte)
  deriving DecidableEq, Repr

/-- Why bytes are no command frame of FCF (R82, R86). -/
inductive Reject where
  /-- no byte at all -/
  | empty
  /-- the first byte is none of the six opcodes -/
  | unknownOpcode
  /-- one of the six opcodes with another length than its own -/
  | wrongLength
  /-- a read frame whose dummy byte is not `DUMMY_VALUE` -/
  | wrongDummy
  deriving DecidableEq, Repr

/-- `op`, bits 57:56 of the word (R70). -/
def hostOp (w : HostWord) : BitVec 2 := w.extractLsb' 56 2
/-- `offset`, bits 55:32 of the word (R70). -/
def hostOffset (w : HostWord) : Addr := w.extractLsb' 32 24
/-- `length`, bits 31:0 of the word (R70). -/
def hostLength (w : HostWord) : Word := w.extractLsb' 0 32

/-- The host command decoder, total on all words (R71). -/
def decodeHost (w : HostWord) : Instr :=
  if hostOp w = 0b00 then .init (hostOffset w) (hostLength w)
  else if hostOp w = 0b01 then .read (hostOffset w) (hostLength w)
  else if hostOp w = 0b10 then .write (hostOffset w) (hostLength w)
  else .erase (hostOffset w) (hostLength w)

/-- The address of a frame from its three address bytes in sending order (R77). -/
def joinAddr (b1 b2 b3 : Byte) : Addr := b1 ++ b2 ++ b3

/-- The name under which bytes that match no row of R79 are rejected. -/
def rejectFrame (c : Config) (opc : Byte) : Reject :=
  if opc ∈ c.opcodes then .wrongLength else .unknownOpcode

/-- The frame decoder: the first byte selects the row of R79, the length must be the row's (R83), and a
read frame's fifth byte must be `DUMMY_VALUE` (R86; log 29). -/
def decodeFrame (c : Config) : List Byte → Except Reject Instr
  | [] => .error .empty
  | [o] =>
    if o = c.opcIdent then .ok .ident
    else if o = c.opcRdsr then .ok .rdsr
    else .error (rejectFrame c o)
  | [o, b1, b2, b3] =>
    if o = c.opcProg then .ok (.prog (joinAddr b1 b2 b3))
    else if o = c.opcErase4K then .ok (.erase4k (joinAddr b1 b2 b3))
    else if o = c.opcErase64K then .ok (.erase64k (joinAddr b1 b2 b3))
    else .error (rejectFrame c o)
  | [o, b1, b2, b3, d] =>
    if o = c.opcRead then
      if d = c.dummyValue then .ok (.fread (joinAddr b1 b2 b3)) else .error .wrongDummy
    else .error (rejectFrame c o)
  | o :: _ => .error (rejectFrame c o)

/-- The whole decoder. -/
def decode (c : Config) : Code → Except Reject Instr
  | .host w => .ok (decodeHost w)
  | .frame bs => decodeFrame c bs

/-! The encoder. -/

/-- Byte 1 of a frame, `addr[23:16]` (R77). -/
def addrHigh (addr : Addr) : Byte := addr.extractLsb' 16 8
/-- Byte 2 of a frame, `addr[15:8]` (R77). -/
def addrMid (addr : Addr) : Byte := addr.extractLsb' 8 8
/-- Byte 3 of a frame, `addr[7:0]` (R77). -/
def addrLow (addr : Addr) : Byte := addr.extractLsb' 0 8

/-- `Enc1` of R100: format F1. -/
def enc1 (opc : Byte) : List Byte := [opc]
/-- `Enc4` of R100: format F4. -/
def enc4 (opc : Byte) (addr : Addr) : List Byte := [opc, addrHigh addr, addrMid addr, addrLow addr]
/-- `Enc5` of R100: format F5. -/
def enc5 (opc : Byte) (addr : Addr) (dmy : Byte) : List Byte :=
  [opc, addrHigh addr, addrMid addr, addrLow addr, dmy]

/-- `FrameIdent` (R101). -/
def frameIdent (c : Config) : List Byte := enc1 c.opcIdent
/-- `FrameRead` (R102). -/
def frameRead (c : Config) (addr : Addr) : List Byte := enc5 c.opcRead addr c.dummyValue
/-- `FrameProg` (R103). -/
def frameProg (c : Config) (addr : Addr) : List Byte := enc4 c.opcProg addr
/-- `FrameErase4K` (R104). -/
def frameErase4K (c : Config) (addr : Addr) : List Byte := enc4 c.opcErase4K addr
/-- `FrameErase64K` (R105). -/
def frameErase64K (c : Config) (addr : Addr) : List Byte := enc4 c.opcErase64K addr
/-- `FrameRdsr` (R106). -/
def frameRdsr (c : Config) : List Byte := enc1 c.opcRdsr

/-- A host command word from its three fields (R70). -/
def hostWord (op : BitVec 2) (offset : Addr) (length : Word) : HostWord := op ++ offset ++ length

/-- The encoder. -/
def encode (c : Config) : Instr → Code
  | .init offset length => .host (hostWord 0b00 offset length)
  | .read offset length => .host (hostWord 0b01 offset length)
  | .write offset length => .host (hostWord 0b10 offset length)
  | .erase offset length => .host (hostWord 0b11 offset length)
  | .ident => .frame (frameIdent c)
  | .fread addr => .frame (frameRead c addr)
  | .prog addr => .frame (frameProg c addr)
  | .erase4k addr => .frame (frameErase4K c addr)
  | .erase64k addr => .frame (frameErase64K c addr)
  | .rdsr => .frame (frameRdsr c)

/-- How many bits the opcode table gives an instruction's code: 58 for a host command word, 8 for each
byte of a frame. -/
def Code.width : Code → Nat
  | .host _ => 58
  | .frame bs => 8 * bs.length

/-! The opcode table's numbering. -/

/-- Byte `k` of a number, byte 0 the least significant. -/
def byteOfNat (w k : Nat) : Byte := BitVec.ofNat 8 (w >>> (8 * k))

/-- The `n` low bytes of a number, the most significant one first: the table's pattern of a frame has the
bit that is sent first as its highest bit (R74 to R76). -/
def bytesOfNat (w : Nat) : Nat → List Byte
  | 0 => []
  | n + 1 => byteOfNat w n :: bytesOfNat w n

/-- The code whose bits are `w` under the opcode table's numbering: one number, bit 0 its least
significant bit (98_reader.md; log 20). Host command words are 58 bits, 64 in whole bytes. -/
def tableCode (nbits w : Nat) : Option Code :=
  if nbits = 8 ∨ nbits = 32 ∨ nbits = 40 then
    if w < 2 ^ nbits then some (.frame (bytesOfNat w (nbits / 8))) else none
  else if nbits = 58 ∨ nbits = 64 then
    if w < 2 ^ 58 then some (.host (BitVec.ofNat 58 w)) else none
  else none

/-- What the decoder reads from an opcode-table word, in CFG0, the configuration the table is written
for (its notes). -/
def decodeTableWord (nbits w : Nat) : Option Instr :=
  match tableCode nbits w with
  | none => none
  | some code => (decode cfg0 code).toOption

end Sys2Proof
end

