-- ==== Sys2Proof/Machine/State.lean ====
section
/-! DEFINITION. State as plain data: what 10_state.md gives FCF, and what the step needs of the host, the
transport and the chip. -/

namespace Sys2Proof.Machine

/-- Bytes by address: strictly rising addresses, no entry equal to what an unlisted address reads as. -/
abbrev Memory := List Host.Cell

/-- A host buffer: its length in bytes, and its bytes by index (R40; log 12). -/
structure Buffer where
  size : Nat
  cells : Memory
  deriving DecidableEq, Repr

/-- The Device Geometry registers `G` (R11 to R15). -/
structure Geometry where
  manufacturerId : Byte
  capacityCode : Byte
  pageSize : Word
  sectorSize : Word
  totalSize : Word
  deriving DecidableEq, Repr

/-- `S.op`, the host command being executed (R20). -/
inductive Op where
  | init
  | read
  | write
  | erase
  deriving DecidableEq, Repr

/-- `S.pclass`, the poll class (R20). -/
inductive PollClass where
  | program
  | erase
  deriving DecidableEq, Repr

/-- `fsm`, the sequencer state register (R22). -/
inductive Fsm where
  | idle
  | probeWait
  | rdNext
  | rdWait
  | wrNext
  | wrWait
  | erCheck
  | erNext
  | erWait
  | pollIssue
  | pollWait
  | resp
  deriving DecidableEq, Repr

/-- The direction of a data phase (R53). -/
inductive Dir where
  | none
  | wr
  | rd
  deriving DecidableEq, Repr

/-- A transfer request `(cmd, dir, n, wdata)` (R53). -/
structure Xfer where
  cmd : List Byte
  dir : Dir
  n : Word
  wdata : List Byte
  deriving DecidableEq, Repr

/-- The transport's answer to a transfer (R55). -/
inductive Answer where
  | ok (rdata : List Byte)
  | err (e : Terr)
  deriving DecidableEq, Repr

/-- What the transport does with the next transfer it is asked for: it answers as written (R55), it answers
with what the chip answers (R59; log 5), or it never completes the transfer (R271; log 6). -/
inductive Reply where
  | answer (a : Answer)
  | chip
  | silent
  deriving DecidableEq, Repr

/-- The command frame buffer `F` (R24). -/
structure FrameBuffer where
  bytes : Vector Byte 5
  len : BitVec 3
  deriving DecidableEq, Repr

/-- The five errors (R220). -/
inductive Error where
  | geometryMismatch
  | alignmentError
  | transportError (e : Terr)
  | programTimeout
  | eraseTimeout
  deriving DecidableEq, Repr

/-- `RES`, a host command's result (R25, R80): `Ok` with the geometry for INIT and with nothing for the
other commands, or an error. -/
inductive Result where
  | ok (info : Option Geometry)
  | error (e : Error)
  deriving DecidableEq, Repr

/-- A command the host presents: the word, and the buffers it attaches to the spaces IN_BUF and OUT_BUF
(R42, R43, R70). -/
structure HostCmd where
  word : HostWord
  inBuf : Option Buffer
  outBuf : Option Buffer
  deriving DecidableEq, Repr

/-- How far the chip's conduct is fixed: REFCHIP's always is, a real chip's is not after a failure (U7; log 30)
nor past its capacity (U3; log 31). -/
inductive Conduct where
  /-- REFCHIP: as R60 to R63 say at every address, whatever has failed before (P3 of 95_test_vectors.md) -/
  | refchip
  /-- a real chip with nothing failed since a poll last ended with Done: within its capacity it does what REFCHIP
  does -/
  | settled
  /-- a real chip after a failed WRITE or ERASE: what it does with a frame is any value -/
  | unsettled
  deriving DecidableEq, Repr

/-- REFCHIP (R59): `MEM`, `BUSYN`, the values `K` of the write-class frames to come, and the identify
response (R60); with how far its conduct is fixed (U3, U7). -/
structure RefChip where
  mem : Memory
  busyn : Nat
  ks : List Nat
  idResp : List Byte
  conduct : Conduct
  deriving DecidableEq, Repr

/-- The state. -/
structure State where
  /-- the parameters of the instance (R8, R30); it holds `B.max_single_transfer` (R18; log 1, log 22) -/
  cfg : Config
  /-- `G` -/
  g : Geometry
  /-- `S.op` -/
  op : Op
  /-- `S.cur` -/
  cur : Addr
  /-- `S.rem` -/
  rem : Word
  /-- `S.idx` -/
  idx : Word
  /-- `S.chunk` -/
  chunk : Word
  /-- `S.ctr` -/
  ctr : Word
  /-- `S.pclass` -/
  pclass : PollClass
  /-- `fsm` -/
  fsm : Fsm
  /-- `F` -/
  f : FrameBuffer
  /-- `RES` -/
  res : Result
  /-- `X` (R26) -/
  x : Option Xfer
  /-- the observable sequence of transfer requests, oldest first (R6, R54; log 28) -/
  trace : List Xfer
  /-- the results the host has taken, oldest first (R6, R232; log 28) -/
  results : List Result
  /-- the commands the host will present, oldest first (log 18) -/
  cmds : List HostCmd
  /-- IN_BUF (R42) -/
  inBuf : Buffer
  /-- OUT_BUF (R43) -/
  outBuf : Buffer
  /-- what the transport does with the transfers to come, oldest first (R55; log 5) -/
  replies : List Reply
  /-- the chip, REFCHIP or a real one, which answers where no answer is written (log 5, log 30) -/
  chip : RefChip
  /-- the model's own: the request being executed runs past the chip's capacity (U3; log 31) -/
  pastCapacity : Bool
  /-- the model's own: how many free values have been drawn (log 8) -/
  free : Nat
  deriving DecidableEq, Repr

/-- Why the machine stops with a fault. -/
inductive Fault where
  /-- raised by PROG at issue and by FREAD at completion: MemRead or MemWrite past the end of the host's
  buffer (U4). Safe: the model stops. -/
  | bufferRange
  /-- raised at a completion: the transport's answer does not have the length its contract fixes, or its
  error value is none of `TERR` (R55). Safe: the model stops. -/
  | brokenContract
  deriving DecidableEq, Repr

/-- Why the model gives a step no meaning. -/
inductive Refusal where
  /-- raised by `exec` for an instruction that has no meaning yet. Safe: the model stops. -/
  | notModelled (mnemonic : String)
  /-- raised by WRITE and ERASE while not probed (R168, R188, U1). Safe: the model stops. -/
  | notProbed
  /-- raised by READ and WRITE: the attached buffer is shorter than the request (U4). Safe: the model
  stops. -/
  | shortBuffer
  /-- raised by `step`: the configuration breaks a constraint of R8 (U10). Safe: the model stops. -/
  | illFormedConfig
  /-- raised by a frame, and by `step` in a waiting state: R23 has no transition here. Safe: the model
  stops. -/
  | outOfSequence
  /-- raised by `step`: the transfer slot holds bytes that are no command frame (R82). Safe: the model
  stops. -/
  | notAFrame (why : Reject)
  deriving DecidableEq, Repr

/-- One outcome of the machine. -/
abbrev Out := Host.Outcome State Fault Refusal

/-- The geometry before a successful INIT: all zero (R16, R29). -/
def Geometry.zero : Geometry :=
  { manufacturerId := 0, capacityCode := 0, pageSize := 0, sectorSize := 0, totalSize := 0 }

/-- A buffer of no bytes. -/
def Buffer.empty : Buffer := { size := 0, cells := [] }

/-- The machine right after reset (R29, R261). The geometry, `fsm` and `X` are the spec's; the other
values are DESIGN CHOICE (log 1, log 2, log 3, log 4, log 30, log 31). -/
def State.reset : State where
  cfg := cfg0
  g := Geometry.zero
  op := .init
  cur := 0
  rem := 0
  idx := 0
  chunk := 0
  ctr := 0
  pclass := .program
  fsm := .idle
  f := { bytes := Vector.replicate 5 0, len := 0 }
  res := .ok none
  x := none
  trace := []
  results := []
  cmds := []
  inBuf := Buffer.empty
  outBuf := Buffer.empty
  replies := []
  chip := { mem := [], busyn := 0, ks := [], idResp := [0xEF, 0x40, 0x15], conduct := .refchip }
  pastCapacity := false
  free := 0

end Sys2Proof.Machine
end

