-- ==== Sys2Proof/Machine/Ops.lean ====
section
/-! DEFINITION. The named operations over memory and registers: bytes and buffers, MemRead and MemWrite,
Issue, raise and respond, the return to IDLE, acceptance and the advances. -/

namespace Sys2Proof.Machine

/-! Memory. -/

/-- What an unlisted address reads as: the erased value `0xFF` (R63, GK5). PRESUMED for FLASH, DESIGN
CHOICE for the host's buffers (log 13). -/
def unlistedByte : Byte := 0xFF

/-- The byte at an address. -/
def Memory.read : Memory → Nat → Byte
  | [], _ => unlistedByte
  | (b, v) :: m, a => if a = b then v else Memory.read m a

/-- Write one byte, keeping the canonical form. -/
def Memory.write : Memory → Nat → Byte → Memory
  | [], a, v => if v = unlistedByte then [] else [(a, v)]
  | (b, w) :: m, a, v =>
    if a < b then
      if v = unlistedByte then (b, w) :: m else (a, v) :: (b, w) :: m
    else if a = b then
      if v = unlistedByte then m else (a, v) :: m
    else (b, w) :: Memory.write m a v

/-- The `n` bytes from an address, in ascending address order (R9). -/
def Memory.readBytes (m : Memory) (a : Nat) : Nat → List Byte
  | 0 => []
  | n + 1 => m.read a :: Memory.readBytes m (a + 1) n

/-- Write a byte sequence, its first byte at the address (R9). -/
def Memory.writeBytes (m : Memory) (a : Nat) : List Byte → Memory
  | [] => m
  | v :: vs => Memory.writeBytes (m.write a v) (a + 1) vs

/-- Make the `n` bytes from an address read as the unlisted byte. -/
def Memory.wipe (m : Memory) (a n : Nat) : Memory :=
  m.filter fun cell => !(decide (a ≤ cell.1) && decide (cell.1 < a + n))

/-- The canonical form: addresses strictly rising, no entry equal to the unlisted byte. -/
def Memory.wf : Memory → Bool
  | [] => true
  | (a, v) :: m => v != unlistedByte && m.all (fun cell => decide (a < cell.1)) && Memory.wf m

/-- Every listed address is below a bound. -/
def Memory.below (m : Memory) (n : Nat) : Bool := m.all fun cell => decide (cell.1 < n)

/-- A host buffer in canonical form lists only indexes it has. -/
def Buffer.wf (b : Buffer) : Bool := b.cells.wf && b.cells.below b.size

/-- `MemRead` of a host buffer (R9, R42); nothing past its end (U4). -/
def Buffer.read (b : Buffer) (i n : Nat) : Option (List Byte) :=
  if i + n ≤ b.size then some (b.cells.readBytes i n) else none

/-- `MemWrite` of a host buffer (R9, R43); nothing past its end (U4). -/
def Buffer.write (b : Buffer) (i : Nat) (vs : List Byte) : Option Buffer :=
  if i + vs.length ≤ b.size then some { b with cells := b.cells.writeBytes i vs } else none

/-! Free values. -/

/-- The next `n` free bytes, the counter standing at `k` (log 8). -/
def freeBytes (k : Nat) : Nat → List Byte
  | 0 => []
  | n + 1 => Config.freeByte k :: freeBytes (k + 1) n

/-! Issue. -/

/-- The encoder writes the valid bytes of `F` and its length; the other bytes keep what they held (R24,
R100; log 23). -/
def FrameBuffer.load (f : FrameBuffer) (cmd : List Byte) : FrameBuffer :=
  { bytes := Vector.ofFn fun i => cmd.getD i f.bytes[i], len := BitVec.ofNat 3 cmd.length }

/-- `Issue` (R54), with the encoder's write of `F` (R24, R107) and the state in which FCF then waits. -/
def State.issue (s : State) (wait : Fsm) (req : Xfer) : State :=
  { s with f := s.f.load req.cmd, x := some req, trace := s.trace ++ [req], fsm := wait }

/-! The end of a command. -/

/-- `raise E(info)` (R230): the result register and `fsm`; nothing else changes. -/
def State.raise (s : State) (e : Error) : State := { s with res := .error e, fsm := .resp }

/-- `respond Ok(info)` (R231). -/
def State.respond (s : State) (info : Option Geometry) : State := { s with res := .ok info, fsm := .resp }

/-- The host takes `RES` (R232). -/
def State.takeResult (s : State) : State := { s with results := s.results ++ [s.res], fsm := .idle }

/-! Results as numbers (R80). -/

/-- The code of an error (R80, R220). -/
def Error.code : Error → BitVec 3
  | .geometryMismatch => 1
  | .alignmentError => 2
  | .transportError _ => 3
  | .programTimeout => 4
  | .eraseTimeout => 5

/-- The code of a result (R80). -/
def Result.code : Result → BitVec 3
  | .ok _ => 0
  | .error e => e.code

/-- The 2-bit code of `S.op` (R20). -/
def Op.code : Op → BitVec 2
  | .init => 0
  | .read => 1
  | .write => 2
  | .erase => 3

/-- The 1-bit code of `S.pclass` (R20). -/
def PollClass.code : PollClass → BitVec 1
  | .program => 0
  | .erase => 1

/-! Acceptance and the advances. -/

/-- The host presents the first of its commands: its word leaves the port, and the buffers it attaches
become IN_BUF and OUT_BUF (R42, R43, R70). -/
def State.present (s : State) (c : HostCmd) (rest : List HostCmd) : State :=
  { s with cmds := rest, inBuf := c.inBuf.getD s.inBuf, outBuf := c.outBuf.getD s.outBuf }

/-- A request runs past the chip's capacity, the parameter `TOTAL_SIZE_CONST` (R48), or past `2^24` (R274, U3;
log 31). -/
def runsPastCapacity (c : Config) (offset : Addr) (length : Word) : Bool :=
  decide (c.totalSizeConst.toNat < offset.toNat + length.toNat) || decide (2 ^ 24 < offset.toNat + length.toNat)

/-- Acceptance of READ, WRITE and ERASE (R141, R161, R181): the word is latched whole (R52). FCF checks no
range (R15); the model notes for the chip's side whether the request is in it (U3). -/
def State.accept (s : State) (op : Op) (offset : Addr) (length : Word) (next : Fsm) : State :=
  { s with
    op := op, cur := offset, rem := length, idx := 0#32, fsm := next
    pastCapacity := runsPastCapacity s.cfg offset length }

/-- Acceptance of INIT (R121), which has no range. -/
def State.acceptInit (s : State) : State := { s with op := .init, pastCapacity := false }

/-- `S.cur <- trunc_24(S.cur + S.chunk)` (R21). -/
def advanceAddr (cur : Addr) (chunk : Word) : Addr := BitVec.ofNat 24 (cur.toNat + chunk.toNat)

/-- The advance of READ and WRITE (R143, R165). -/
def State.advance (s : State) (next : Fsm) : State :=
  { s with cur := advanceAddr s.cur s.chunk, idx := s.idx + s.chunk, rem := s.rem - s.chunk, fsm := next }

/-- The advance of ERASE (R186). -/
def State.advanceErase (s : State) (next : Fsm) : State :=
  { s with cur := advanceAddr s.cur s.chunk, rem := s.rem - s.chunk, fsm := next }

/-- The poll's entry (R201). -/
def State.enterPoll (s : State) (c : PollClass) (budget : Word) : State :=
  { s with pclass := c, ctr := budget, fsm := .pollIssue }

/-- The transfer in flight is over (R55): the slot is empty, and the reply is used up. -/
def State.landed (s : State) (replies : List Reply) : State := { s with x := none, replies := replies }

end Sys2Proof.Machine
end

