-- ==== Sys2Proof/Machine/Flags.lean ====
section
/-! DEFINITION. The bits that play the part of flags (R27): probed, the alignment test, the ready test. -/

namespace Sys2Proof.Machine

/-- probed: `G.page_size ≠ 0` (R16). -/
def State.probed (s : State) : Bool := s.g.pageSize != 0#32

/-- The alignment test of ERASE (R182): the offset or the length is no multiple of the sector size. -/
def misaligned (sector : Word) (offset : Addr) (length : Word) : Bool :=
  offset.toNat % sector.toNat != 0 || length.toNat % sector.toNat != 0

/-- The busy bit of a status byte is clear (R204). -/
def busyClear (c : Config) (status : Byte) : Bool := status &&& c.busyMask == 0#8

/-- The error-flag bit of a status byte is in its expected state (R204). -/
def errAsExpected (c : Config) (status : Byte) : Bool := status &&& c.errMask == c.errExpect

/-- `Ready` (R204). -/
def ready (c : Config) (p : PollClass) (status : Byte) : Bool :=
  match p with
  | .program => busyClear c status
  | .erase => busyClear c status && errAsExpected c status

end Sys2Proof.Machine
end

