-- ==== Sys2Proof/Machine/Operands.lean ====
section
/-! DEFINITION. Operand forms: the chunk of each loop, the requests of the six frames, the fields of the
identify response. -/

namespace Sys2Proof.Machine

/-- `B.max_single_transfer` (R18), stored once as the parameter `MAX_XFER` (log 22). -/
def State.maxSingleTransfer (s : State) : Word := s.cfg.maxXfer

/-- READ's chunk, `min(S.rem, MAX_XFER)` (R142). -/
def State.readChunk (s : State) : Word :=
  BitVec.ofNat 32 (min s.rem.toNat s.maxSingleTransfer.toNat)

/-- `byte_in_page = zext_32(S.cur) mod G.page_size` (R162). -/
def State.byteInPage (s : State) : Nat := s.cur.toNat % s.g.pageSize.toNat

/-- WRITE's chunk, `min(S.rem, G.page_size - byte_in_page, MAX_XFER)` (R162). -/
def State.writeChunk (s : State) : Word :=
  BitVec.ofNat 32
    (min s.rem.toNat (min (s.g.pageSize.toNat - s.byteInPage) s.maxSingleTransfer.toNat))

/-- ERASE's chunk, one sector (R184). -/
def State.eraseChunk (s : State) : Word := s.g.sectorSize

/-- The erase frame matching the sector size (R180, R183). -/
def State.eraseFrame (s : State) : Instr :=
  if s.g.sectorSize = sectorLarge then .erase64k s.cur else .erase4k s.cur

/-! The transfer requests (R79, R101 to R106). -/

/-- IDENT's request (R101). -/
def identRequest (c : Config) : Xfer :=
  { cmd := frameIdent c, dir := .rd, n := BitVec.ofNat 32 c.idLen, wdata := [] }

/-- FREAD's request for `n` bytes (R102). -/
def freadRequest (c : Config) (addr : Addr) (n : Word) : Xfer :=
  { cmd := frameRead c addr, dir := .rd, n := n, wdata := [] }

/-- PROG's request for the `n` bytes `wdata` (R103). -/
def progRequest (c : Config) (addr : Addr) (n : Word) (wdata : List Byte) : Xfer :=
  { cmd := frameProg c addr, dir := .wr, n := n, wdata := wdata }

/-- ERASE4K's request (R104). -/
def erase4kRequest (c : Config) (addr : Addr) : Xfer :=
  { cmd := frameErase4K c addr, dir := .none, n := 0#32, wdata := [] }

/-- ERASE64K's request (R105). -/
def erase64kRequest (c : Config) (addr : Addr) : Xfer :=
  { cmd := frameErase64K c addr, dir := .none, n := 0#32, wdata := [] }

/-- RDSR's request (R106). -/
def rdsrRequest (c : Config) : Xfer := { cmd := frameRdsr c, dir := .rd, n := 1#32, wdata := [] }

/-- How many bytes an `Ok` answer to a request carries (R55). -/
def Xfer.answerLength (q : Xfer) : Nat := if q.dir = .rd then q.n.toNat else 0

/-! The identify response (R44). -/

/-- `r[MFR_INDEX]`. -/
def manufacturerByte (c : Config) (r : List Byte) : Byte := r.getD c.mfrIndex 0
/-- `r[CAP_INDEX]`. -/
def capacityByte (c : Config) (r : List Byte) : Byte := r.getD c.capIndex 0

/-- The sector size a capacity-code byte selects (R14, R125). -/
def sectorSizeOf (cap : Byte) : Word := if cap = cap64K then sectorLarge else sectorSmall

/-- The geometry a successful INIT writes (R125). -/
def geometryOf (c : Config) (r : List Byte) : Geometry where
  manufacturerId := manufacturerByte c r
  capacityCode := capacityByte c r
  pageSize := pageSizeConst
  sectorSize := sectorSizeOf (capacityByte c r)
  totalSize := c.totalSizeConst

/-- The status byte of a status read (R44). -/
def statusByte (r : List Byte) : Byte := r.getD 0 0

end Sys2Proof.Machine
end

