-- ==== Sys2Proof/Machine/Chip.lean ====
section
/-! DEFINITION. REFCHIP, the reference chip (20_memory.md R59 to R63), and a real chip, whose conduct is any value
after a failed WRITE or ERASE (U7) and in a request past its capacity (U3): environments for runs with flash
contents, no part of FCF (D35). -/

namespace Sys2Proof.Machine

/-- IDENT: the identify response (R60). -/
def RefChip.identify (c : RefChip) : Answer × RefChip := (.ok c.idResp, c)

/-- RDSR: busy while `BUSYN` counts down, then ready (R60). -/
def RefChip.status (busyMask : Byte) (c : RefChip) : Answer × RefChip :=
  if 0 < c.busyn then (.ok [busyMask], { c with busyn := c.busyn - 1 }) else (.ok [0x00], c)

/-- The `n` bytes of `MEM` from an address, wrapping at `2^24` (R61). -/
def flashBytes (m : Memory) (a : Nat) : Nat → List Byte
  | 0 => []
  | n + 1 => m.read (a % 2 ^ 24) :: flashBytes m (a + 1) n

/-- FREAD (R61). -/
def RefChip.fread (addr : Addr) (n : Nat) (c : RefChip) : Answer × RefChip :=
  (.ok (flashBytes c.mem addr.toNat n), c)

/-- The cell that byte `i` of a PROG at `a` programs: it wraps inside the 256-byte page (R62). -/
def progTarget (a i : Nat) : Nat := (a - a % 256) + (a % 256 + i) % 256

/-- Program bytes `i` and on of a PROG at `a`: each is ANDed with the cell's content (R62). -/
def progBytes (m : Memory) (a i : Nat) : List Byte → Memory
  | [] => m
  | d :: ds => progBytes (m.write (progTarget a i) (m.read (progTarget a i) &&& d)) a (i + 1) ds

/-- `BUSYN <- K` after a write-class frame that completes with `Ok` while what the chip does is fixed, with the next
`K` of the script (R59; log 14). -/
def RefChip.startBusy (c : RefChip) : RefChip := { c with busyn := c.ks.headD 0, ks := c.ks.tail }

/-- PROG (R62). -/
def RefChip.prog (addr : Addr) (wdata : List Byte) (c : RefChip) : Answer × RefChip :=
  (.ok [], { c with mem := progBytes c.mem addr.toNat 0 wdata }.startBusy)

/-- ERASE4K and ERASE64K: the sector that holds the address becomes `0xFF` (R63). -/
def RefChip.erase (sector : Nat) (addr : Addr) (c : RefChip) : Answer × RefChip :=
  (.ok [], { c with mem := c.mem.wipe (addr.toNat - addr.toNat % sector) sector }.startBusy)

/-! Where the chip's side is any value (U3, U7, R169, R188, R234, R272, R274; log 9, log 30, log 31). -/

/-- A WRITE or ERASE has failed: REFCHIP goes on as its rules say, a real chip does not. -/
def Conduct.afterFailure : Conduct → Conduct
  | .refchip => .refchip
  | .settled => .unsettled
  | .unsettled => .unsettled

/-- A poll has ended with Done. -/
def Conduct.afterDone : Conduct → Conduct
  | .refchip => .refchip
  | .settled => .settled
  | .unsettled => .settled

/-- Cells `i` and on of the chunk of a PROG at `a`, overwritten with the given bytes. -/
def overwriteChunk (m : Memory) (a i : Nat) : List Byte → Memory
  | [] => m
  | d :: ds => overwriteChunk (m.write (progTarget a i) d) a (i + 1) ds

/-- The chip may or may not be busy: `BUSYN` is a free number. The script is kept. It is the model's choice (log 14)
that no frame whose effect is unknown uses up a `K` of it: neither a failed write-class transfer, on which R59 is
silent, nor one that completes with `Ok` on a real chip that is unsettled or past its capacity, R59 giving `K` to
REFCHIP only. -/
def State.busyUnknown (s : State) : State :=
  { s with
    chip := { s.chip with busyn := Config.freeNat s.free, conduct := s.chip.conduct.afterFailure }
    free := s.free + 1 }

/-- The effect of a PROG of `n` bytes at `addr` is unknown: the chunk's cells are free bytes. -/
def State.chunkUnknown (s : State) (addr : Addr) (n : Nat) : State :=
  { s with
    chip := { s.chip with mem := overwriteChunk s.chip.mem addr.toNat 0 (freeBytes s.free n) }
    free := s.free + n }.busyUnknown

/-- The effect of an erase at `addr` is unknown: the sector's cells are free bytes. -/
def State.sectorUnknown (s : State) (addr : Addr) (sector : Nat) : State :=
  { s with
    chip := { s.chip with
      mem := s.chip.mem.writeBytes (addr.toNat - addr.toNat % sector) (freeBytes s.free sector) }
    free := s.free + sector }.busyUnknown

/-- How many addresses FLASH has (R40). -/
def flashSize : Nat := 2 ^ 24

/-- The effect of a request past the capacity is unconstrained (U3): the contents of FLASH are a free value. -/
def State.flashUnknown (s : State) : State :=
  { s with
    chip := { s.chip with mem := s.chip.mem.writeBytes 0 ((Config.freeFlash s.free).take flashSize) }
    free := s.free + 1 }.busyUnknown

/-- A real chip is asked for a request past its capacity (R274, U3). REFCHIP has cells at every address, and its
reads wrap (R59, R61, GK6). -/
abbrev State.beyond (s : State) : Prop := s.pastCapacity = true ∧ s.chip.conduct ≠ .refchip

/-- The effect of a PROG of `n` bytes at `addr` is unknown, by where its request lies. -/
def State.progUnknown (s : State) (addr : Addr) (n : Nat) : State :=
  if s.beyond then s.flashUnknown else s.chunkUnknown addr n

/-- The effect of an erase at `addr` is unknown, by where its request lies. -/
def State.eraseUnknown (s : State) (addr : Addr) (sector : Nat) : State :=
  if s.beyond then s.flashUnknown else s.sectorUnknown addr sector

/-- The cells of the chunk or sector that a poll is about (R169, R188). -/
def State.inFlight (s : State) (k : Nat) : Prop :=
  match s.pclass with
  | .program => ∃ j, j < s.chunk.toNat ∧ k = progTarget s.cur.toNat j
  | .erase =>
    s.cur.toNat - s.cur.toNat % s.chunk.toNat ≤ k ∧ k < s.cur.toNat - s.cur.toNat % s.chunk.toNat + s.chunk.toNat

/-- The command ends in its poll, by a failed status read or a timeout: on a real chip the chunk or sector in
flight is any value (R169, R188). REFCHIP has programmed or erased it at once (R62, R63; P3). -/
def State.inFlightUnknown (s : State) : State :=
  if s.chip.conduct = .refchip then s
  else
    match s.pclass with
    | .program => s.progUnknown s.cur s.chunk.toNat
    | .erase => s.eraseUnknown s.cur s.chunk.toNat

/-- A poll has ended with Done: what the chip does is fixed again. -/
def State.settle (s : State) : State :=
  { s with chip := { s.chip with conduct := s.chip.conduct.afterDone } }

/-! What the chip does with a frame, REFCHIP's part `does` or any value (log 30, log 31). -/

/-- What the chip does with the frames of the request being executed is fixed: it is REFCHIP, or a settled real
chip within its capacity. -/
abbrev State.chipFixed (s : State) : Prop :=
  s.chip.conduct = .refchip ∨ s.chip.conduct = .settled ∧ s.pastCapacity = false

/-- The chip's answer to the request `q`, and the state with the free bytes drawn for it. -/
def State.chipAnswer (s : State) (q : Xfer) (does : RefChip → Answer × RefChip) : Answer × State :=
  if s.chipFixed then ((does s.chip).1, s)
  else (.ok (freeBytes s.free q.answerLength), { s with free := s.free + q.answerLength })

/-- The chip's part of a transfer that completes with `Ok`. Where it is open, a write-class frame uses up no `K` of
the script, which is the model's choice (`State.busyUnknown`; log 14). -/
def State.perform (s : State) (does : RefChip → Answer × RefChip) (unknown : State → State) : State :=
  if s.chipFixed then { s with chip := (does s.chip).2 } else unknown s

end Sys2Proof.Machine
end

