-- ==== Sys2Proof/Machine/Transport.lean ====
section
/-! DEFINITION. The life of a command frame: its issue (R54) and its completion (R55), shared by the six
frames. -/

namespace Sys2Proof.Machine

/-- The transport's contract: an `Ok` answer carries the length the request fixes, an `Err` a value of `TERR` and no
bytes (R55, U8; log 7, log 21). -/
def Answer.fits (c : Config) (q : Xfer) : Answer → Bool
  | .ok d => d.length == q.answerLength
  | .err e => c.hasTerr e

/-- The transport answers with what the chip answers (R59). -/
def completeByChip (q : Xfer) (does : RefChip → Answer × RefChip) (unknown : State → State)
    (taken : Answer → State → Out) (rest : List Reply) (s : State) : Out :=
  if (s.chipAnswer q does).1.fits s.cfg q then
    taken (s.chipAnswer q does).1 (((s.chipAnswer q does).2.landed rest).perform does unknown)
  else .fault .brokenContract

/-- `Complete()` of the request `q` in flight (R55). `does` is REFCHIP's part, `unknown` what the transfer
leaves of the chip where its effect is any value, and `taken` FCF's transition on the answer. A written `Ok`
replaces the chip's answer and not its part (log 10). With no reply left the chip answers (log 5). A silent
transport leaves everything as it is (R271; log 6). -/
def complete (q : Xfer) (does : RefChip → Answer × RefChip) (unknown : State → State)
    (taken : Answer → State → Out) (s : State) : Out :=
  match s.replies with
  | [] => completeByChip q does unknown taken [] s
  | .chip :: rest => completeByChip q does unknown taken rest s
  | .silent :: _ => .next s
  | .answer (.ok d) :: rest =>
    if (Answer.ok d).fits s.cfg q then taken (.ok d) ((s.landed rest).perform does unknown)
    else .fault .brokenContract
  | .answer (.err e) :: rest =>
    if (Answer.err e).fits s.cfg q then taken (.err e) (unknown (s.landed rest))
    else .fault .brokenContract

/-- The two transitions of a frame (R23): with the slot empty, from `start`, its issue; with this frame in
flight, from `wait`, its completion. No other transition exists (log 16). -/
def frameStep (start wait : Fsm) (cmd : List Byte) (issueIt : State → Out) (completeIt : Xfer → State → Out)
    (s : State) : Out :=
  match s.x with
  | none => if s.fsm = start then issueIt s else .refused .outOfSequence
  | some q => if s.fsm = wait ∧ q.cmd = cmd then completeIt q s else .refused .outOfSequence

end Sys2Proof.Machine
end

