-- ==== Sys2Proof/Machine/Erase.lean ====
section
/-! DEFINITION. ERASE (44_erase.md) and its frames ERASE4K (R104) and ERASE64K (R105). -/

namespace Sys2Proof.Machine

/-- The transitions out of ER_WAIT: the poll's entry in the erase class, or TransportError (R185). -/
def eraseTaken : Answer → State → Out
  | .ok _, s => .next (s.enterPoll .erase s.cfg.eraseBudget)
  | .err e, s => .next (s.raise (.transportError e))

/-- ERASE4K, the erase frame for 4 KiB sectors (R104): issued from ER_NEXT (R184), completed in ER_WAIT. -/
def execErase4k (addr : Addr) (s : State) : Out :=
  frameStep .erNext .erWait (frameErase4K s.cfg addr)
    (fun s => .next (s.issue .erWait (erase4kRequest s.cfg addr)))
    (fun q s =>
      complete q (RefChip.erase sectorSmall.toNat addr) (fun s => s.eraseUnknown addr sectorSmall.toNat)
        eraseTaken s) s

/-- ERASE64K, the erase frame for 64 KiB sectors (R105): issued from ER_NEXT (R184), completed in
ER_WAIT. -/
def execErase64k (addr : Addr) (s : State) : Out :=
  frameStep .erNext .erWait (frameErase64K s.cfg addr)
    (fun s => .next (s.issue .erWait (erase64kRequest s.cfg addr)))
    (fun q s =>
      complete q (RefChip.erase sectorLarge.toNat addr) (fun s => s.eraseUnknown addr sectorLarge.toNat)
        eraseTaken s) s

/-- ERASE (R180): acceptance (R181). Outside IDLE the word is not taken (R233; log 17); while not probed the
command is refused (R188, U1; log 11). -/
def execErase (offset : Addr) (length : Word) (s : State) : Out :=
  if s.fsm = .idle then
    if s.probed then .next (s.accept .erase offset length .erCheck) else .refused .notProbed
  else .next s

end Sys2Proof.Machine
end

