-- ==== Sys2Proof/Machine/Init.lean ====
section
/-! DEFINITION. INIT (41_probe.md) and its frame IDENT (R101). -/

namespace Sys2Proof.Machine

/-- The transitions out of PROBE_WAIT (R123, R124, R125). -/
def probeTaken : Answer → State → Out
  | .err e, s => .next (s.raise (.transportError e))
  | .ok r, s =>
    if manufacturerByte s.cfg r = s.cfg.mfrExpected then
      .next ({ s with g := geometryOf s.cfg r }.respond (some (geometryOf s.cfg r)))
    else .next (s.raise .geometryMismatch)

/-- IDENT, the identify frame (R101): issued from IDLE by INIT (R122), completed in PROBE_WAIT. -/
def execIdent (s : State) : Out :=
  frameStep .idle .probeWait (frameIdent s.cfg)
    (fun s => .next (s.issue .probeWait (identRequest s.cfg)))
    (fun q s => complete q RefChip.identify id probeTaken s) s

/-- INIT (R120). Outside IDLE the word is not taken (R233; log 17). In IDLE it is accepted (R121); when
probed it responds at once (R126; log 26), otherwise it issues the identify transfer (R122). -/
def execInit (_offset : Addr) (_length : Word) (s : State) : Out :=
  if s.fsm = .idle then
    if s.probed then .next (s.acceptInit.respond (some s.g))
    else execIdent s.acceptInit
  else .next s

end Sys2Proof.Machine
end

