-- ==== Sys2Proof/Machine/Poll.lean ====
section
/-! DEFINITION. The status poll (45_status_poll.md) and its frame RDSR (R106). -/

namespace Sys2Proof.Machine

/-- The error a poll class times out with (R207). -/
def PollClass.timeout : PollClass → Error
  | .program => .programTimeout
  | .erase => .eraseTimeout

/-- Done: the advance of the class (R205), the chip's conduct fixed again (U7). -/
def State.pollDone (s : State) : State :=
  match s.pclass with
  | .program => s.settle.advance .wrNext
  | .erase => s.settle.advanceErase .erNext

/-- Not ready: the counter goes down; at zero the poll times out (R206, R207), and the
chunk or sector in flight is as U7 says. -/
def State.pollAgain (s : State) : State :=
  if s.ctr - 1#32 = 0#32 then { s with ctr := s.ctr - 1#32 }.inFlightUnknown.raise s.pclass.timeout
  else { s with ctr := s.ctr - 1#32, fsm := .pollIssue }

/-- The transitions out of POLL_WAIT (R203, R205, R206, R207). -/
def pollTaken : Answer → State → Out
  | .err e, s => .next (s.inFlightUnknown.raise (.transportError e))
  | .ok r, s => .next (if ready s.cfg s.pclass (statusByte r) then s.pollDone else s.pollAgain)

/-- RDSR, the read-status frame (R106): issued from POLL_ISSUE (R202), completed in POLL_WAIT. -/
def execRdsr (s : State) : Out :=
  frameStep .pollIssue .pollWait (frameRdsr s.cfg)
    (fun s => .next (s.issue .pollWait (rdsrRequest s.cfg)))
    (fun q s => complete q (RefChip.status s.cfg.busyMask) State.busyUnknown pollTaken s) s

end Sys2Proof.Machine
end

