-- ==== Sys2Proof/Machine/Read.lean ====
section
/-! DEFINITION. READ (42_read.md) and its frame FREAD (R102). -/

namespace Sys2Proof.Machine

/-- The bytes of the chunk are written to OUT_BUF (R143, U2); past the end of the buffer the model stops
(U4). -/
def withOutBuf (s : State) (d : List Byte) (k : State → State) : Out :=
  match s.outBuf.write s.idx.toNat d with
  | some b => .next (k { s with outBuf := b })
  | none => .fault .bufferRange

/-- The transitions out of RD_WAIT: the chunk's bytes and the advance (R143), or TransportError with the
failing chunk's bytes free (R144, U2; log 8). -/
def readTaken : Answer → State → Out
  | .ok d, s => withOutBuf s d (fun s => s.advance .rdNext)
  | .err e, s =>
    withOutBuf s (freeBytes s.free s.chunk.toNat)
      (fun s => { s with free := s.free + s.chunk.toNat }.raise (.transportError e))

/-- FREAD, the read frame (R102): issued from RD_NEXT for the chunk in flight (R142), completed in
RD_WAIT. -/
def execFread (addr : Addr) (s : State) : Out :=
  frameStep .rdNext .rdWait (frameRead s.cfg addr)
    (fun s => .next (s.issue .rdWait (freadRequest s.cfg addr s.chunk)))
    (fun q s => complete q (RefChip.fread addr q.n.toNat) id readTaken s) s

/-- READ (R140): acceptance (R141). Outside IDLE the word is not taken (R233; log 17); a buffer shorter
than the request is refused (U4; log 12). -/
def execRead (offset : Addr) (length : Word) (s : State) : Out :=
  if s.fsm = .idle then
    if s.outBuf.size < length.toNat then .refused .shortBuffer
    else .next (s.accept .read offset length .rdNext)
  else .next s

end Sys2Proof.Machine
end

