-- ==== Sys2Proof/Machine/Write.lean ====
section
/-! DEFINITION. WRITE (43_program.md) and its frame PROG (R103). -/

namespace Sys2Proof.Machine

/-- The transitions out of WR_WAIT: the poll's entry in the program class, or TransportError (R164). -/
def writeTaken : Answer → State → Out
  | .ok _, s => .next (s.enterPoll .program s.cfg.progBudget)
  | .err e, s => .next (s.raise (.transportError e))

/-- PROG, the program frame (R103): issued from WR_NEXT with the chunk's bytes of IN_BUF, read in that same
step (R42, R163), completed in WR_WAIT. -/
def execProg (addr : Addr) (s : State) : Out :=
  frameStep .wrNext .wrWait (frameProg s.cfg addr)
    (fun s =>
      match s.inBuf.read s.idx.toNat s.chunk.toNat with
      | some d => .next (s.issue .wrWait (progRequest s.cfg addr s.chunk d))
      | none => .fault .bufferRange)
    (fun q s => complete q (RefChip.prog addr q.wdata) (fun s => s.progUnknown addr q.n.toNat) writeTaken s) s

/-- WRITE (R160): acceptance (R161). Outside IDLE the word is not taken (R233; log 17); while not probed the
command is refused (R168, U1; log 11); a buffer shorter than the request is refused (U4; log 12). -/
def execWrite (offset : Addr) (length : Word) (s : State) : Out :=
  if s.fsm = .idle then
    if s.probed then
      if s.inBuf.size < length.toNat then .refused .shortBuffer
      else .next (s.accept .write offset length .wrNext)
    else .refused .notProbed
  else .next s

end Sys2Proof.Machine
end

