-- ==== Sys2Proof/Machine/Fetch.lean ====
section
/-! DEFINITION. What FCF does next: the instruction the sequencer comes to, or a transition that runs none
(the transition table of R23). -/

namespace Sys2Proof.Machine

/-- The next move: run an instruction in a state, or the outcome of a transition that runs none. -/
inductive Move where
  | run (i : Instr) (s : State)
  | done (o : Out)
  deriving Repr

/-- IDLE: the host presents its next command, or FCF waits (R261; log 18). -/
def idleMove (s : State) : Move :=
  match s.cmds with
  | [] => .done (.next s)
  | c :: rest => .run (decodeHost c.word) (s.present c rest)

/-- RD_NEXT (R142). -/
def readHead (s : State) : Move :=
  if s.rem = 0#32 then .done (.next (s.respond none))
  else .run (.fread s.cur) { s with chunk := s.readChunk }

/-- WR_NEXT (R162, R163). A page size of zero has no meaning (R168, U1). -/
def writeHead (s : State) : Move :=
  if s.g.pageSize = 0#32 then .done (.refused .notProbed)
  else if s.rem = 0#32 then .done (.next (s.respond none))
  else .run (.prog s.cur) { s with chunk := s.writeChunk }

/-- ER_CHECK (R182). A sector size of zero has no meaning (R188, U1). -/
def eraseCheck (s : State) : Move :=
  if s.g.sectorSize = 0#32 then .done (.refused .notProbed)
  else if misaligned s.g.sectorSize s.cur s.rem then .done (.next (s.raise .alignmentError))
  else .done (.next { s with fsm := .erNext })

/-- ER_NEXT (R184). -/
def eraseHead (s : State) : Move :=
  if s.rem = 0#32 then .done (.next (s.respond none))
  else .run s.eraseFrame { s with chunk := s.eraseChunk }

/-- A waiting state: the frame in the transfer slot is decoded and runs (R55, R83). -/
def waitMove (s : State) : Move :=
  match s.x with
  | none => .done (.refused .outOfSequence)
  | some q =>
    match decodeFrame s.cfg q.cmd with
    | .ok i => .run i s
    | .error why => .done (.refused (.notAFrame why))

/-- The next move in each state of the sequencer (R22, R23). -/
def sequencerMove (s : State) : Move :=
  match s.fsm with
  | .idle => idleMove s
  | .probeWait => waitMove s
  | .rdNext => readHead s
  | .rdWait => waitMove s
  | .wrNext => writeHead s
  | .wrWait => waitMove s
  | .erCheck => eraseCheck s
  | .erNext => eraseHead s
  | .erWait => waitMove s
  | .pollIssue => .run .rdsr s
  | .pollWait => waitMove s
  | .resp => .done (.next s.takeResult)

/-- The next move of an instance; an ill-formed configuration is none (R8, U10; log 25). -/
def fetch (s : State) : Move :=
  if s.cfg.wf then sequencerMove s else .done (.refused .illFormedConfig)

/-! Placing one instruction where `fetch` finds it next (log 19). -/

/-- A host command at the head of the host's commands, FCF idle with its slot empty, with a buffer of the
length the command asks for. -/
def State.placeHost (s : State) (w : HostWord) : State :=
  { s with
    fsm := .idle
    x := none
    cmds :=
      { word := w
        inBuf := some { size := (hostLength w).toNat, cells := [] }
        outBuf := some { size := (hostLength w).toNat, cells := [] } } :: s.cmds }

/-- A frame in flight: the slot holds it, and the sequencer waits for it. -/
def State.placeInFlight (s : State) (wait : Fsm) (req : Xfer) : State := { s with fsm := wait, x := some req }

/-- A frame in flight as the last transfer of its command, with the smallest chunk that its rules allow;
bytes that decode to no frame are placed in the slot as they are. -/
def State.placeFrame (s : State) (bytes : List Byte) : State :=
  match decodeFrame s.cfg bytes with
  | .ok .ident => s.placeInFlight .probeWait (identRequest s.cfg)
  | .ok (.fread addr) =>
    { s with cur := addr, rem := 1, idx := 0, chunk := 1, outBuf := { size := 1, cells := [] } }.placeInFlight
      .rdWait (freadRequest s.cfg addr 1)
  | .ok (.prog addr) =>
    { s with cur := addr, rem := 1, idx := 0, chunk := 1 }.placeInFlight
      .wrWait (progRequest s.cfg addr 1 [0xFF])
  | .ok (.erase4k addr) =>
    { s with cur := addr, rem := sectorSmall, chunk := sectorSmall }.placeInFlight
      .erWait (erase4kRequest s.cfg addr)
  | .ok (.erase64k addr) =>
    { s with cur := addr, rem := sectorLarge, chunk := sectorLarge }.placeInFlight
      .erWait (erase64kRequest s.cfg addr)
  | .ok .rdsr => { s with ctr := s.cfg.progBudget }.placeInFlight .pollWait (rdsrRequest s.cfg)
  | .ok (.init _ _) => s
  | .ok (.read _ _) => s
  | .ok (.write _ _) => s
  | .ok (.erase _ _) => s
  | .error _ => s.placeInFlight .pollWait { cmd := bytes, dir := .none, n := 0#32, wdata := [] }

/-- The word of an opcode-table row, placed by its level; no code of the table leaves the state as it is. -/
def State.placeWord (s : State) (nbits w : Nat) : State :=
  match tableCode nbits w with
  | none => s
  | some (.host word) => s.placeHost word
  | some (.frame bytes) => s.placeFrame bytes

end Sys2Proof.Machine
end

