-- ==== Sys2Proof/Machine/Dispatch.lean ====
section
/-! DEFINITION. The one dispatch from an instruction to its meaning. -/

namespace Sys2Proof.Machine

def exec (i : Instr) (s : State) : Host.Outcome State Fault Refusal :=
  match i with
  | .init offset length => Sys2Proof.Machine.execInit offset length s
  | .read offset length => Sys2Proof.Machine.execRead offset length s
  | .write offset length => Sys2Proof.Machine.execWrite offset length s
  | .erase offset length => Sys2Proof.Machine.execErase offset length s
  | .ident => Sys2Proof.Machine.execIdent s
  | .fread addr => Sys2Proof.Machine.execFread addr s
  | .prog addr => Sys2Proof.Machine.execProg addr s
  | .erase4k addr => Sys2Proof.Machine.execErase4k addr s
  | .erase64k addr => Sys2Proof.Machine.execErase64k addr s
  | .rdsr => Sys2Proof.Machine.execRdsr s

end Sys2Proof.Machine
end

