-- ==== Sys2Proof/Machine/Step.lean ====
section
/-! DEFINITION. One step: the sequencer's next move, and the meaning of the instruction it runs. -/

namespace Sys2Proof.Machine

/-- One transition of R23, or a wait (log 6, log 15, log 18). No other agent has a move (log 27). -/
def step (s : State) : Host.Outcome State Fault Refusal :=
  match fetch s with
  | .run i t => exec i t
  | .done o => o

/-- The state with an opcode-table word placed where `step` finds its next instruction (log 19). -/
def State.withFetchWord (s : State) (nbits w : Nat) : State := s.placeWord nbits w

end Sys2Proof.Machine
end

