-- ==== Sys2Proof/Safety.lean ====
section
/-! DEFINITION. What claims are stated in: the transfers that are FCF's own, the invariant of the machine,
the transport's contract, the results a command can return. -/

namespace Sys2Proof.Machine

/-- A state in which a transfer is in flight (R26). -/
def Fsm.waits : Fsm → Bool
  | .probeWait | .rdWait | .wrWait | .erWait | .pollWait => true
  | .idle | .rdNext | .wrNext | .erCheck | .erNext | .pollIssue | .resp => false

/-- A transfer request is from FCF: one row of R79 matches, with the bounds of R86. -/
def Xfer.fromFcf (c : Config) (q : Xfer) : Bool :=
  match decodeFrame c q.cmd with
  | .ok .ident => q.dir == .rd && q.n.toNat == c.idLen && q.wdata == []
  | .ok (.fread _) => q.dir == .rd && decide (1 ≤ q.n.toNat) && decide (q.n.toNat ≤ c.maxXfer.toNat) && q.wdata == []
  | .ok (.prog addr) =>
    q.dir == .wr && decide (1 ≤ q.n.toNat) && decide (q.n.toNat ≤ c.maxXfer.toNat) &&
      q.wdata.length == q.n.toNat && decide (addr.toNat % 256 + q.n.toNat ≤ 256)
  | .ok (.erase4k addr) => q.dir == .none && q.n == 0#32 && q.wdata == [] && addr.toNat % 4096 == 0
  | .ok (.erase64k addr) => q.dir == .none && q.n == 0#32 && q.wdata == [] && addr.toNat % 65536 == 0
  | .ok .rdsr => q.dir == .rd && q.n == 1#32 && q.wdata == []
  | .ok (.init _ _) => false
  | .ok (.read _ _) => false
  | .ok (.write _ _) => false
  | .ok (.erase _ _) => false
  | .error _ => false

/-- The geometry invariant of R16: all zero, or all populated by one successful INIT. -/
def Geometry.zeroOrPopulated (c : Config) (g : Geometry) : Prop :=
  g = Geometry.zero ∨
    (g.manufacturerId = c.mfrExpected ∧ g.pageSize = 256 ∧
      (g.capacityCode = 0x20 → g.sectorSize = 65536) ∧ (g.capacityCode ≠ 0x20 → g.sectorSize = 4096) ∧
      g.totalSize = c.totalSizeConst)

/-- A READ in progress: what is left fits the index register and the host's buffer (R21, R143). -/
def State.reading (s : State) : Prop :=
  s.op = .read ∧ s.idx.toNat + s.rem.toNat < 2 ^ 32 ∧ s.idx.toNat + s.rem.toNat ≤ s.outBuf.size

/-- A WRITE in progress (R21, R165). -/
def State.writing (s : State) : Prop :=
  s.op = .write ∧ s.probed = true ∧ s.idx.toNat + s.rem.toNat < 2 ^ 32 ∧
    s.idx.toNat + s.rem.toNat ≤ s.inBuf.size

/-- An ERASE in progress, past its check: the offset and what is left are whole sectors (R182). -/
def State.erasing (s : State) : Prop :=
  s.op = .erase ∧ s.probed = true ∧ misaligned s.g.sectorSize s.cur s.rem = false

/-- The chunk of a WRITE in flight (R166). -/
def State.writeChunkOk (s : State) : Prop :=
  1 ≤ s.chunk.toNat ∧ s.chunk.toNat ≤ s.rem.toNat ∧ s.chunk.toNat ≤ s.cfg.maxXfer.toNat ∧
    s.cur.toNat % 256 + s.chunk.toNat ≤ 256

/-- The chunk of an ERASE in flight (R184). -/
def State.eraseChunkOk (s : State) : Prop := s.rem ≠ 0#32 ∧ s.chunk = s.g.sectorSize

/-- The command that a poll belongs to, by its class, with budget left (R201, R206). -/
def State.polling (s : State) : Prop :=
  1 ≤ s.ctr.toNat ∧
    match s.pclass with
    | .program => s.writing ∧ s.writeChunkOk
    | .erase => s.erasing ∧ s.eraseChunkOk

/-- The results each host command can return, with the payload of `Ok` (R80). -/
def Op.returns (op : Op) : Result → Prop
  | .ok (some _) => op = .init
  | .ok none => op ≠ .init
  | .error .geometryMismatch => op = .init
  | .error .alignmentError => op = .erase
  | .error (.transportError _) => True
  | .error .programTimeout => op = .write
  | .error .eraseTimeout => op = .erase

/-- An error value a result holds is of `TERR` (R25, R220). -/
def Result.inTerr (c : Config) : Result → Bool
  | .error (.transportError e) => c.hasTerr e
  | .error .geometryMismatch => true
  | .error .alignmentError => true
  | .error .programTimeout => true
  | .error .eraseTimeout => true
  | .ok _ => true

/-- What the sequencer's working registers and the transfer in flight hold in each state (R22, R23). -/
def State.sequenced (s : State) : Prop :=
  match s.fsm with
  | .idle => True
  | .probeWait => s.op = .init ∧ s.probed = false ∧ s.x = some (identRequest s.cfg)
  | .rdNext => s.reading
  | .rdWait =>
    s.reading ∧ 1 ≤ s.chunk.toNat ∧ s.chunk.toNat ≤ s.rem.toNat ∧ s.chunk.toNat ≤ s.cfg.maxXfer.toNat ∧
      s.x = some (freadRequest s.cfg s.cur s.chunk)
  | .wrNext => s.writing
  | .wrWait =>
    s.writing ∧ s.writeChunkOk ∧
      ∃ d, d.length = s.chunk.toNat ∧ s.x = some (progRequest s.cfg s.cur s.chunk d)
  | .erCheck => s.op = .erase ∧ s.probed = true
  | .erNext => s.erasing
  | .erWait =>
    s.erasing ∧ s.eraseChunkOk ∧
      ((s.g.sectorSize = 65536 ∧ s.x = some (erase64kRequest s.cfg s.cur)) ∨
        (s.g.sectorSize = 4096 ∧ s.x = some (erase4kRequest s.cfg s.cur)))
  | .pollIssue => s.polling
  | .pollWait => s.polling ∧ s.x = some (rdsrRequest s.cfg)
  | .resp => s.op.returns s.res

/-- Memory is in canonical form: REFCHIP's cells below `2^24` (R40), and every buffer's within its size. -/
def State.memoryOk (s : State) : Prop :=
  s.chip.mem.wf = true ∧ s.chip.mem.below (2 ^ 24) = true ∧ s.inBuf.wf = true ∧ s.outBuf.wf = true ∧
    ∀ c ∈ s.cmds, (∀ b, c.inBuf = some b → b.wf = true) ∧ (∀ b, c.outBuf = some b → b.wf = true)

/-- The invariant of the machine. -/
structure State.Inv (s : State) : Prop where
  /-- the configuration meets R8 -/
  config : s.cfg.wf = true
  /-- R16 -/
  geometry : s.g.zeroOrPopulated s.cfg
  /-- R26 -/
  slot : s.x ≠ none ↔ s.fsm.waits = true
  /-- R86, of every request ever issued -/
  requests : ∀ q ∈ s.trace, q.fromFcf s.cfg = true
  /-- R22, R23 -/
  sequence : s.sequenced
  /-- the canonical form of memory -/
  memory : s.memoryOk
  /-- `RES`, and every result taken, holds no error value but one of `TERR` (R25, D30) -/
  errorValues : ∀ r ∈ s.res :: s.results, r.inTerr s.cfg = true

/-- The next transfer is answered with what the chip answers, and `rest` are the replies after it (log 5). -/
abbrev State.asksChip (s : State) (rest : List Reply) : Prop :=
  s.replies = .chip :: rest ∨ s.replies = [] ∧ rest = []

/-- The transport keeps its contract for the transfer in flight (R55): an `Ok` answer has the request's length, an
`Err` a value of `TERR`, and the chip, where it answers, is given an identify response of `ID_LEN` bytes (R60). -/
def State.transportOk (s : State) : Prop :=
  ∀ q, s.x = some q →
    match s.replies with
    | .answer (.ok d) :: _ => d.length = q.answerLength
    | .answer (.err e) :: _ => s.cfg.hasTerr e = true
    | .silent :: _ => True
    | .chip :: _ => s.chip.idResp.length = s.cfg.idLen
    | [] => s.chip.idResp.length = s.cfg.idLen

/-- The host keeps its duties for a command it presents, which it does in IDLE only (R233): WRITE and ERASE only
after a successful INIT (R265), and buffers of at least the length asked for (R269). -/
def State.hostOk (s : State) : Prop :=
  ∀ c rest, s.fsm = .idle → s.cmds = c :: rest →
    match decodeHost c.word with
    | .read _ length => length.toNat ≤ (s.present c rest).outBuf.size
    | .write _ length => s.probed = true ∧ length.toNat ≤ (s.present c rest).inBuf.size
    | .erase _ _ => s.probed = true
    | .init _ _ => True
    | .ident => True
    | .fread _ => True
    | .prog _ => True
    | .erase4k _ => True
    | .erase64k _ => True
    | .rdsr => True

/-- An outcome with its next state changed. -/
def mapNext (f : State → State) : Out → Out
  | .next t => .next (f t)
  | .fault r => .fault r
  | .refused r => .refused r

/-- `n` steps of the machine, stopping at the first fault or refusal. -/
def run : Nat → State → Out
  | 0, s => .next s
  | n + 1, s =>
    match step s with
    | .next t => run n t
    | .fault r => .fault r
    | .refused r => .refused r

/-- The transport completes every transfer of the command in progress, and keeps its contract: the premise of
R271. -/
def State.everyTransferCompletes (s : State) : Prop :=
  ∀ n u, run n s = .next u → u.results = s.results →
    u.transportOk ∧ (u.x ≠ none → ∀ rest, u.replies ≠ .silent :: rest)

/-- Requests that program `n` bytes one after another, without gap or overlap: from byte `i` of IN_BUF to flash
address `a`, each with a PROG frame and at least one byte (R166). -/
def progsCover (c : Config) (b : Buffer) : Nat → Nat → Nat → List Xfer → Prop
  | _, _, n, [] => n = 0
  | a, i, n, q :: qs =>
    q.cmd = frameProg c (BitVec.ofNat 24 a) ∧ 1 ≤ q.n.toNat ∧ q.n.toNat ≤ n ∧
      q.wdata = b.cells.readBytes i q.n.toNat ∧
      progsCover c b (a + q.n.toNat) (i + q.n.toNat) (n - q.n.toNat) qs

/-- The transitions of R23, as pairs of states. -/
def fsmEdges : List (Fsm × Fsm) :=
  [(.idle, .probeWait), (.idle, .resp), (.idle, .rdNext), (.idle, .wrNext), (.idle, .erCheck)] ++
  [(.probeWait, .resp), (.rdNext, .resp), (.rdNext, .rdWait), (.rdWait, .rdNext), (.rdWait, .resp)] ++
  [(.wrNext, .resp), (.wrNext, .wrWait), (.wrWait, .pollIssue), (.wrWait, .resp)] ++
  [(.erCheck, .resp), (.erCheck, .erNext), (.erNext, .resp), (.erNext, .erWait)] ++
  [(.erWait, .pollIssue), (.erWait, .resp), (.pollIssue, .pollWait), (.pollWait, .resp)] ++
  [(.pollWait, .wrNext), (.pollWait, .erNext), (.pollWait, .pollIssue), (.resp, .idle)]

end Sys2Proof.Machine
end

