-- ==== Sys2Proof/Certificates/Slice0/Obligations.lean ====
section
/-! DEFINITION. The statements for the provers. A clause that rests on a choice of the model names the log
entry. `s.trace` is the observable sequence of transfer requests; an outcome `.next t` is a transition. -/

open Sys2Proof Sys2Proof.Machine

/-! Reset, words, the step. -/

/-- The state after reset (V-RESET of 95_test_vectors.md). -/
def Obligations.ResetLeavesFcfIdleAndUnprobed : Prop :=
  State.reset.g = ⟨0, 0, 0, 0, 0⟩ ∧ State.reset.fsm = .idle ∧ State.reset.x = none ∧ State.reset.trace = [] ∧
    State.reset.probed = false ∧ State.reset.maxSingleTransfer = State.reset.cfg.maxXfer ∧
    State.reset.cfg.wf = true

/-- Words written out in tables V-CMD and V-ENC of 95_test_vectors.md decode to the instruction each stands
for (CFG0). -/
def Obligations.SpecWordsDecodeToTheirInstruction : Prop :=
  decodeHost 0x0ABCDEF12345678 = .init 0xABCDEF 0x12345678 ∧
  decodeHost 0x10010FE00000004 = .read 0x0010FE 4 ∧
  decodeHost 0x1FFFFFFFFFFFFFF = .read 0xFFFFFF 0xFFFFFFFF ∧
  decodeHost 0x20001040000012C = .write 0x000104 0x12C ∧
  decodeHost 0x301000000020000 = .erase 0x010000 0x20000 ∧
  decodeFrame cfg0 [0x9F] = .ok .ident ∧
  decodeFrame cfg0 [0x0B, 0x01, 0x23, 0x45, 0x00] = .ok (.fread 0x012345) ∧
  decodeFrame cfg0 [0x02, 0xAB, 0xCD, 0xEF] = .ok (.prog 0xABCDEF) ∧
  decodeFrame cfg0 [0x20, 0xFF, 0xF0, 0x00] = .ok (.erase4k 0xFFF000) ∧
  decodeFrame cfg0 [0xD8, 0x01, 0x00, 0x00] = .ok (.erase64k 0x010000) ∧
  decodeFrame cfg0 [0x05] = .ok .rdsr

/-- The invariant holds at reset. -/
def Obligations.InvariantAtReset : Prop := State.reset.Inv

/-- A step runs the decoded instruction: in IDLE the host's next command word, with the buffers the host
attaches with it; in a waiting state the frame in the transfer slot. -/
def Obligations.StepRunsTheDecodedInstruction : Prop :=
  (∀ (s : State) (c : HostCmd) (rest : List HostCmd), s.cfg.wf = true → s.fsm = .idle → s.cmds = c :: rest →
    step s = exec (decodeHost c.word)
      { s with cmds := rest, inBuf := c.inBuf.getD s.inBuf, outBuf := c.outBuf.getD s.outBuf }) ∧
  (∀ (s : State) (q : Xfer) (i : Instr), s.cfg.wf = true → s.fsm.waits = true → s.x = some q →
    decodeFrame s.cfg q.cmd = .ok i → step s = exec i s)

/-- After an issue of a frame of 1, 4 or 5 bytes `F` holds the frame and its length (R24, R100). -/
def Obligations.IssueLoadsTheFrameBuffer : Prop :=
  ∀ (s : State) (wait : Fsm) (q : Xfer), q.cmd.length ≤ 5 →
    (s.issue wait q).f.len.toNat = q.cmd.length ∧
    ∀ k : Fin 5, k.val < q.cmd.length → (s.issue wait q).f.bytes[k] = q.cmd.getD k.val 0

/-- A host command outside IDLE is not taken and has no effect (R233; that the step is then a wait is log
17). -/
def Obligations.HostCommandOutsideIdleHasNoEffect : Prop :=
  ∀ (i : Instr) (s : State), i.level = .hostCommand → s.fsm ≠ .idle → exec i s = .next s

/-! INIT and IDENT. -/

/-- INIT when probed: no transfer, `Ok` with the stored geometry (R126); `S.op` is written as R121 says (log
26). INIT has no range to run past (log 31). -/
def Obligations.InitWhenProbedReturnsTheStoredGeometry : Prop :=
  ∀ (s : State) (o : Addr) (l : Word), s.fsm = .idle → s.g.pageSize ≠ 0#32 →
    exec (.init o l) s = .next
      { s with op := .init, pastCapacity := false, res := .ok (some s.g), fsm := .resp }

/-- INIT when not probed issues the identify transfer, whatever its offset and length hold (R72, R121,
R122); so does IDENT run in IDLE (R101). INIT has no range to run past (log 31). -/
def Obligations.InitIssuesTheIdentifyTransfer : Prop :=
  ∀ (s : State) (o : Addr) (l : Word), s.fsm = .idle → s.g.pageSize = 0#32 → s.x = none →
    exec .ident s = .next
      { s with
        f := s.f.load [s.cfg.opcIdent]
        x := some { cmd := [s.cfg.opcIdent], dir := .rd, n := BitVec.ofNat 32 s.cfg.idLen, wdata := [] }
        trace := s.trace ++ [{ cmd := [s.cfg.opcIdent], dir := .rd, n := BitVec.ofNat 32 s.cfg.idLen, wdata := [] }]
        fsm := .probeWait } ∧
    exec (.init o l) s = .next
      { s with
        op := .init
        pastCapacity := false
        f := s.f.load [s.cfg.opcIdent]
        x := some { cmd := [s.cfg.opcIdent], dir := .rd, n := BitVec.ofNat 32 s.cfg.idLen, wdata := [] }
        trace := s.trace ++ [{ cmd := [s.cfg.opcIdent], dir := .rd, n := BitVec.ofNat 32 s.cfg.idLen, wdata := [] }]
        fsm := .probeWait }

/-- The identify transfer fails with a value of `TERR` (R55, log 21): TransportError with that value, no geometry
register written (R123). That the chip is as before, though R234 does not know whether the transfer reached it, is log 9:
IDENT only reads. -/
def Obligations.IdentifyFailureRaisesTransportError : Prop :=
  ∀ (s : State) (q : Xfer) (e : Terr) (rest : List Reply), s.fsm = .probeWait → s.x = some q →
    q.cmd = frameIdent s.cfg → s.replies = .answer (.err e) :: rest → s.cfg.hasTerr e = true →
    exec .ident s = .next
      { s with x := none, replies := rest, res := .error (.transportError e), fsm := .resp }

/-- The manufacturer byte is wrong: GeometryMismatch, no geometry register written (R124). -/
def Obligations.WrongManufacturerRaisesGeometryMismatch : Prop :=
  ∀ (s : State) (q : Xfer) (r : List Byte) (rest : List Reply), s.fsm = .probeWait → s.x = some q →
    q.cmd = frameIdent s.cfg → s.replies = .answer (.ok r) :: rest → r.length = q.answerLength →
    r.getD s.cfg.mfrIndex 0 ≠ s.cfg.mfrExpected →
    exec .ident s = .next
      { s with x := none, replies := rest, res := .error .geometryMismatch, fsm := .resp }

/-- The manufacturer byte is right: the five registers are written and are the result (R125). -/
def Obligations.RightManufacturerWritesTheGeometry : Prop :=
  ∀ (s : State) (q : Xfer) (r : List Byte) (rest : List Reply), s.fsm = .probeWait → s.x = some q →
    q.cmd = frameIdent s.cfg → s.replies = .answer (.ok r) :: rest → r.length = q.answerLength →
    r.getD s.cfg.mfrIndex 0 = s.cfg.mfrExpected →
    ∃ t, exec .ident s = .next t ∧
      t.g.manufacturerId = r.getD s.cfg.mfrIndex 0 ∧ t.g.capacityCode = r.getD s.cfg.capIndex 0 ∧
      t.g.sectorSize = (if r.getD s.cfg.capIndex 0 = 0x20 then 65536 else 4096) ∧ t.g.pageSize = 256 ∧
      t.g.totalSize = s.cfg.totalSizeConst ∧
      t = { s with x := none, replies := rest, g := t.g, res := .ok (some t.g), fsm := .resp }

/-! READ and FREAD. -/

/-- Acceptance of READ (R141). The buffer is at least as long as the request (U4, log 12). The model notes for the
chip's side whether the request runs past the capacity (R274, U3, log 31); FCF does not check it. -/
def Obligations.ReadIsAccepted : Prop :=
  ∀ (s : State) (o : Addr) (l : Word), s.fsm = .idle → l.toNat ≤ s.outBuf.size →
    exec (.read o l) s = .next
      { s with
        op := .read, cur := o, rem := l, idx := 0#32, fsm := .rdNext
        pastCapacity := decide (s.cfg.totalSizeConst.toNat < o.toNat + l.toNat ∨ 2 ^ 24 < o.toNat + l.toNat) }

/-- READ's loop head (R142). -/
def Obligations.ReadLoopHead : Prop :=
  ∀ s : State, s.cfg.wf = true → s.fsm = .rdNext → s.x = none →
    (s.rem = 0#32 → step s = .next { s with res := .ok none, fsm := .resp }) ∧
    (s.rem ≠ 0#32 → ∃ n : Word, n.toNat = min s.rem.toNat s.cfg.maxXfer.toNat ∧ 1 ≤ n.toNat ∧
      n.toNat ≤ s.cfg.maxXfer.toNat ∧ n.toNat ≤ s.rem.toNat ∧
      step s = .next
        { s with
          chunk := n
          f := s.f.load (frameRead s.cfg s.cur)
          x := some { cmd := frameRead s.cfg s.cur, dir := .rd, n := n, wdata := [] }
          trace := s.trace ++ [{ cmd := frameRead s.cfg s.cur, dir := .rd, n := n, wdata := [] }]
          fsm := .rdWait })

/-- FREAD is issued from RD_NEXT for the chunk in flight: opcode, three address bytes, dummy byte (R76, R77,
R102). -/
def Obligations.FreadIsIssued : Prop :=
  ∀ (s : State) (a : Addr), s.fsm = .rdNext → s.x = none →
    exec (.fread a) s = .next
      { s with
        f := s.f.load [s.cfg.opcRead, a.extractLsb' 16 8, a.extractLsb' 8 8, a.extractLsb' 0 8, s.cfg.dummyValue]
        x := some
          { cmd := [s.cfg.opcRead, a.extractLsb' 16 8, a.extractLsb' 8 8, a.extractLsb' 0 8, s.cfg.dummyValue]
            dir := .rd, n := s.chunk, wdata := [] }
        trace := s.trace ++
          [{ cmd := [s.cfg.opcRead, a.extractLsb' 16 8, a.extractLsb' 8 8, a.extractLsb' 0 8, s.cfg.dummyValue]
             dir := .rd, n := s.chunk, wdata := [] }]
        fsm := .rdWait }

/-- A chunk arrives, by a written answer or the chip's: it is written to OUT_BUF at `S.idx` and nowhere else, and the
registers advance (R143, R21). The chip answers, while what it does is fixed, byte `i` with the cell at
`(a + i) mod 2^24` (R61), and otherwise any bytes (U3, U7; log 30, log 31). -/
def Obligations.FreadSuccessStoresTheChunkAndAdvances : Prop :=
  ∀ (s : State) (a : Addr) (q : Xfer) (rest : List Reply), s.fsm = .rdWait → s.x = some q →
    q.cmd = frameRead s.cfg a → q.dir = .rd →
    ((∃ d, s.replies = .answer (.ok d) :: rest ∧ d.length = q.n.toNat) ∨ s.asksChip rest) →
    s.idx.toNat + q.n.toNat ≤ s.outBuf.size → s.outBuf.wf = true →
    ∃ (d : List Byte) (t : State), exec (.fread a) s = .next t ∧ d.length = q.n.toNat ∧
      (∀ d', s.replies = .answer (.ok d') :: rest → d = d') ∧
      (s.asksChip rest → s.chipFixed →
        ∀ i, i < q.n.toNat → d.getD i 0 = s.chip.mem.read ((a.toNat + i) % 2 ^ 24)) ∧
      t.cur.toNat = (s.cur.toNat + s.chunk.toNat) % 2 ^ 24 ∧ t.outBuf.size = s.outBuf.size ∧
      (∀ i, i < q.n.toNat → t.outBuf.cells.read (s.idx.toNat + i) = d.getD i 0) ∧
      (∀ i, (i < s.idx.toNat ∨ s.idx.toNat + q.n.toNat ≤ i) →
        t.outBuf.cells.read i = s.outBuf.cells.read i) ∧
      t = { s with
        x := none, replies := rest, outBuf := t.outBuf, cur := t.cur, idx := s.idx + s.chunk
        rem := s.rem - s.chunk, fsm := .rdNext, free := t.free } ∧
      (s.chipFixed → t.free = s.free)

/-- A chunk fails with a value of `TERR` (R55, log 21): TransportError with that value; the bytes of the failing chunk
are any value, every other byte of OUT_BUF is as before, nothing is advanced (R144). -/
def Obligations.FreadFailureLeavesEarlierChunksIntact : Prop :=
  ∀ (s : State) (a : Addr) (q : Xfer) (e : Terr) (rest : List Reply), s.fsm = .rdWait → s.x = some q →
    q.cmd = frameRead s.cfg a → s.replies = .answer (.err e) :: rest → s.cfg.hasTerr e = true →
    s.idx.toNat + s.chunk.toNat ≤ s.outBuf.size → s.outBuf.wf = true →
    ∃ t, exec (.fread a) s = .next t ∧ t.outBuf.size = s.outBuf.size ∧
      (∀ i, (i < s.idx.toNat ∨ s.idx.toNat + s.chunk.toNat ≤ i) →
        t.outBuf.cells.read i = s.outBuf.cells.read i) ∧
      t = { s with
        x := none, replies := rest, outBuf := t.outBuf, free := t.free
        res := .error (.transportError e), fsm := .resp }

/-! WRITE and PROG. -/

/-- Acceptance of WRITE (R161), probed (R160), with a buffer at least as long as the request (U4, log 12). The model
notes for the chip's side whether the request runs past the capacity (R274, U3, log 31). -/
def Obligations.WriteIsAccepted : Prop :=
  ∀ (s : State) (o : Addr) (l : Word), s.fsm = .idle → s.g.pageSize ≠ 0#32 → l.toNat ≤ s.inBuf.size →
    exec (.write o l) s = .next
      { s with
        op := .write, cur := o, rem := l, idx := 0#32, fsm := .wrNext
        pastCapacity := decide (s.cfg.totalSizeConst.toNat < o.toNat + l.toNat ∨ 2 ^ 24 < o.toNat + l.toNat) }

/-- WRITE and ERASE on a zero geometry are refused, whatever the length (R168, R188, R229 (e), U1). -/
def Obligations.WriteAndEraseAreRefusedUnprobed : Prop :=
  ∀ (s : State) (o : Addr) (l : Word), s.fsm = .idle → s.g.pageSize = 0#32 →
    exec (.write o l) s = .refused .notProbed ∧ exec (.erase o l) s = .refused .notProbed

/-- WRITE's loop head: the chunk never crosses a page and the frame carries the chunk's bytes of IN_BUF (R162,
R163). -/
def Obligations.WriteLoopHead : Prop :=
  ∀ s : State, s.cfg.wf = true → s.fsm = .wrNext → s.x = none → s.g.pageSize = 256 →
    s.idx.toNat + s.rem.toNat ≤ s.inBuf.size →
    (s.rem = 0#32 → step s = .next { s with res := .ok none, fsm := .resp }) ∧
    (s.rem ≠ 0#32 → ∃ (n : Word) (d : List Byte),
      n.toNat = min s.rem.toNat (min (256 - s.cur.toNat % 256) s.cfg.maxXfer.toNat) ∧ 1 ≤ n.toNat ∧
      s.cur.toNat % 256 + n.toNat ≤ 256 ∧ d.length = n.toNat ∧
      (∀ i, i < n.toNat → d.getD i 0 = s.inBuf.cells.read (s.idx.toNat + i)) ∧
      step s = .next
        { s with
          chunk := n
          f := s.f.load (frameProg s.cfg s.cur)
          x := some { cmd := frameProg s.cfg s.cur, dir := .wr, n := n, wdata := d }
          trace := s.trace ++ [{ cmd := frameProg s.cfg s.cur, dir := .wr, n := n, wdata := d }]
          fsm := .wrWait })

/-- PROG is issued from WR_NEXT with the chunk's bytes of IN_BUF: opcode and three address bytes (R75, R77,
R103). -/
def Obligations.ProgIsIssued : Prop :=
  ∀ (s : State) (a : Addr), s.fsm = .wrNext → s.x = none → s.idx.toNat + s.chunk.toNat ≤ s.inBuf.size →
    ∃ q : Xfer, q.cmd = [s.cfg.opcProg, a.extractLsb' 16 8, a.extractLsb' 8 8, a.extractLsb' 0 8] ∧
      q.dir = .wr ∧ q.n = s.chunk ∧ q.wdata.length = s.chunk.toNat ∧
      (∀ i, i < s.chunk.toNat → q.wdata.getD i 0 = s.inBuf.cells.read (s.idx.toNat + i)) ∧
      exec (.prog a) s = .next
        { s with f := s.f.load q.cmd, x := some q, trace := s.trace ++ [q], fsm := .wrWait }

/-- PROG completes, by a written answer or the chip's: the poll is entered in the program class with the whole
budget (R164). The chip performs the frame, as REFCHIP does while what it does is fixed (log 10, log 30, log 31). -/
def Obligations.ProgSuccessEntersTheProgramPoll : Prop :=
  ∀ (s : State) (a : Addr) (q : Xfer) (rest : List Reply), s.fsm = .wrWait → s.x = some q →
    q.cmd = frameProg s.cfg a → q.dir ≠ .rd → (s.replies = .answer (.ok []) :: rest ∨ s.asksChip rest) →
    ∃ (chip : RefChip) (free : Nat),
      (s.chipFixed → chip = (RefChip.prog a q.wdata s.chip).2 ∧ free = s.free) ∧
      exec (.prog a) s = .next
        { s with
          x := none, replies := rest, pclass := .program, ctr := s.cfg.progBudget, fsm := .pollIssue
          chip := chip, free := free }

/-- PROG or an erase frame fails with a value of `TERR` (R55, log 21): TransportError with that value, no poll (R164,
R185). Of the chip the cells of the chunk or
sector, its busy count and, on a real chip, its conduct change (log 9, log 30); its other cells, unless a real chip
is asked for a request past its capacity (U3, log 31), the script of busy counts (log 14) and the identify response
are as before. -/
def Obligations.WriteClassFailureRaisesTransportError : Prop :=
  ∀ (s : State) (a : Addr) (q : Xfer) (e : Terr) (rest : List Reply), s.x = some q →
    s.replies = .answer (.err e) :: rest → s.cfg.hasTerr e = true → s.chip.mem.wf = true →
    (s.fsm = .wrWait → q.cmd = frameProg s.cfg a → ∃ t, exec (.prog a) s = .next t ∧
      t = { s with
        x := none, replies := rest, res := .error (.transportError e), fsm := .resp
        chip := t.chip, free := t.free } ∧
      t.chip.ks = s.chip.ks ∧ t.chip.idResp = s.chip.idResp ∧
      t.chip.conduct = s.chip.conduct.afterFailure ∧
      (¬ s.beyond → ∀ k, (∀ j, j < q.n.toNat → k ≠ progTarget a.toNat j) →
        t.chip.mem.read k = s.chip.mem.read k)) ∧
    (s.fsm = .erWait → q.cmd = frameErase4K s.cfg a → ∃ t, exec (.erase4k a) s = .next t ∧
      t = { s with
        x := none, replies := rest, res := .error (.transportError e), fsm := .resp
        chip := t.chip, free := t.free } ∧
      t.chip.ks = s.chip.ks ∧ t.chip.idResp = s.chip.idResp ∧
      t.chip.conduct = s.chip.conduct.afterFailure ∧
      (¬ s.beyond → ∀ k, k / 4096 ≠ a.toNat / 4096 → t.chip.mem.read k = s.chip.mem.read k)) ∧
    (s.fsm = .erWait → q.cmd = frameErase64K s.cfg a → ∃ t, exec (.erase64k a) s = .next t ∧
      t = { s with
        x := none, replies := rest, res := .error (.transportError e), fsm := .resp
        chip := t.chip, free := t.free } ∧
      t.chip.ks = s.chip.ks ∧ t.chip.idResp = s.chip.idResp ∧
      t.chip.conduct = s.chip.conduct.afterFailure ∧
      (¬ s.beyond → ∀ k, k / 65536 ≠ a.toNat / 65536 → t.chip.mem.read k = s.chip.mem.read k))

/-! ERASE, ERASE4K and ERASE64K. -/

/-- Acceptance of ERASE (R181), probed (R180). The model notes for the chip's side whether the request runs past the
capacity (R274, U3, log 31). -/
def Obligations.EraseIsAccepted : Prop :=
  ∀ (s : State) (o : Addr) (l : Word), s.fsm = .idle → s.g.pageSize ≠ 0#32 →
    exec (.erase o l) s = .next
      { s with
        op := .erase, cur := o, rem := l, idx := 0#32, fsm := .erCheck
        pastCapacity := decide (s.cfg.totalSizeConst.toNat < o.toNat + l.toNat ∨ 2 ^ 24 < o.toNat + l.toNat) }

/-- The alignment check (R182): AlignmentError exactly when the offset or the length is no multiple of the
sector size, with no transfer. -/
def Obligations.EraseChecksAlignment : Prop :=
  ∀ s : State, s.cfg.wf = true → s.fsm = .erCheck → s.g.sectorSize ≠ 0#32 →
    ((s.cur.toNat % s.g.sectorSize.toNat ≠ 0 ∨ s.rem.toNat % s.g.sectorSize.toNat ≠ 0) →
      step s = .next { s with res := .error .alignmentError, fsm := .resp }) ∧
    (s.cur.toNat % s.g.sectorSize.toNat = 0 → s.rem.toNat % s.g.sectorSize.toNat = 0 →
      step s = .next { s with fsm := .erNext })

/-- A misaligned ERASE, from its presentation to its end: two steps, AlignmentError, no transfer, the chip
and the geometry as they were (R182, R222, R229 (a)). -/
def Obligations.MisalignedEraseIssuesNoTransfer : Prop :=
  ∀ (s : State) (c : HostCmd) (rest : List HostCmd) (o : Addr) (l : Word), s.Inv → s.probed = true →
    s.fsm = .idle → s.cmds = c :: rest → decodeHost c.word = .erase o l →
    (o.toNat % s.g.sectorSize.toNat ≠ 0 ∨ l.toNat % s.g.sectorSize.toNat ≠ 0) →
    ∃ t, run 2 s = .next t ∧ t.fsm = .resp ∧ t.res = .error .alignmentError ∧ t.trace = s.trace ∧
      t.x = none ∧ t.g = s.g ∧ t.chip = s.chip ∧ t.replies = s.replies

/-- ERASE's loop head: one sector, the frame of the sector size (R183, R184). -/
def Obligations.EraseLoopHead : Prop :=
  ∀ s : State, s.cfg.wf = true → s.fsm = .erNext → s.x = none →
    (s.g.sectorSize = 4096 ∨ s.g.sectorSize = 65536) →
    (s.rem = 0#32 → step s = .next { s with res := .ok none, fsm := .resp }) ∧
    (s.rem ≠ 0#32 → ∃ q : Xfer, q.dir = .none ∧ q.n = 0#32 ∧ q.wdata = [] ∧
      (s.g.sectorSize = 65536 → q.cmd = frameErase64K s.cfg s.cur) ∧
      (s.g.sectorSize = 4096 → q.cmd = frameErase4K s.cfg s.cur) ∧
      step s = .next
        { s with
          chunk := s.g.sectorSize, f := s.f.load q.cmd, x := some q, trace := s.trace ++ [q], fsm := .erWait })

/-- The two erase frames are issued from ER_NEXT: opcode and three address bytes, no data phase (R75, R77,
R104, R105). -/
def Obligations.EraseFramesAreIssued : Prop :=
  ∀ (s : State) (a : Addr), s.fsm = .erNext → s.x = none →
    exec (.erase4k a) s = .next
      { s with
        f := s.f.load [s.cfg.opcErase4K, a.extractLsb' 16 8, a.extractLsb' 8 8, a.extractLsb' 0 8]
        x := some
          { cmd := [s.cfg.opcErase4K, a.extractLsb' 16 8, a.extractLsb' 8 8, a.extractLsb' 0 8]
            dir := .none, n := 0#32, wdata := [] }
        trace := s.trace ++
          [{ cmd := [s.cfg.opcErase4K, a.extractLsb' 16 8, a.extractLsb' 8 8, a.extractLsb' 0 8]
             dir := .none, n := 0#32, wdata := [] }]
        fsm := .erWait } ∧
    exec (.erase64k a) s = .next
      { s with
        f := s.f.load [s.cfg.opcErase64K, a.extractLsb' 16 8, a.extractLsb' 8 8, a.extractLsb' 0 8]
        x := some
          { cmd := [s.cfg.opcErase64K, a.extractLsb' 16 8, a.extractLsb' 8 8, a.extractLsb' 0 8]
            dir := .none, n := 0#32, wdata := [] }
        trace := s.trace ++
          [{ cmd := [s.cfg.opcErase64K, a.extractLsb' 16 8, a.extractLsb' 8 8, a.extractLsb' 0 8]
             dir := .none, n := 0#32, wdata := [] }]
        fsm := .erWait }

/-- An erase frame completes, by a written answer or the chip's: the poll is entered in the erase class with the
whole budget (R185). The chip performs the frame, as REFCHIP does while what it does is fixed (log 10, log 30, log 31). -/
def Obligations.EraseFrameSuccessEntersTheErasePoll : Prop :=
  ∀ (s : State) (a : Addr) (q : Xfer) (rest : List Reply), s.fsm = .erWait → s.x = some q → q.dir ≠ .rd →
    (s.replies = .answer (.ok []) :: rest ∨ s.asksChip rest) →
    (q.cmd = frameErase4K s.cfg a → ∃ (chip : RefChip) (free : Nat),
      (s.chipFixed → chip = (RefChip.erase 4096 a s.chip).2 ∧ free = s.free) ∧
      exec (.erase4k a) s = .next
        { s with
          x := none, replies := rest, pclass := .erase, ctr := s.cfg.eraseBudget, fsm := .pollIssue
          chip := chip, free := free }) ∧
    (q.cmd = frameErase64K s.cfg a → ∃ (chip : RefChip) (free : Nat),
      (s.chipFixed → chip = (RefChip.erase 65536 a s.chip).2 ∧ free = s.free) ∧
      exec (.erase64k a) s = .next
        { s with
          x := none, replies := rest, pclass := .erase, ctr := s.cfg.eraseBudget, fsm := .pollIssue
          chip := chip, free := free })

/-! The status poll and RDSR. -/

/-- POLL_ISSUE issues a status read at once; so does RDSR run there (R106, R202). -/
def Obligations.PollIssuesAStatusRead : Prop :=
  ∀ s : State, s.fsm = .pollIssue → s.x = none →
    exec .rdsr s = .next
      { s with
        f := s.f.load [s.cfg.opcRdsr]
        x := some { cmd := [s.cfg.opcRdsr], dir := .rd, n := 1#32, wdata := [] }
        trace := s.trace ++ [{ cmd := [s.cfg.opcRdsr], dir := .rd, n := 1#32, wdata := [] }]
        fsm := .pollWait } ∧
    (s.cfg.wf = true → step s = exec .rdsr s)

/-- A status read fails with a value of `TERR` (R55, log 21): TransportError with that value, the counter as it was,
whatever it was (R203, R229 (b)). Of the chip only
its busy count, its conduct and, on a real chip, the cells of the chunk or sector in flight may change (R169,
R188; log 9, log 30), past its capacity any cell (U3, log 31). -/
def Obligations.StatusReadFailureRaisesTransportError : Prop :=
  ∀ (s : State) (q : Xfer) (e : Terr) (rest : List Reply), s.fsm = .pollWait → s.x = some q →
    q.cmd = frameRdsr s.cfg → s.replies = .answer (.err e) :: rest → s.cfg.hasTerr e = true →
    s.chip.mem.wf = true →
    ∃ t, exec .rdsr s = .next t ∧
      t = { s with
        x := none, replies := rest, res := .error (.transportError e), fsm := .resp
        chip := t.chip, free := t.free } ∧
      t.chip.ks = s.chip.ks ∧ t.chip.idResp = s.chip.idResp ∧
      (s.chip.conduct = .refchip → t.chip.mem = s.chip.mem) ∧
      (¬ s.beyond → ∀ k, ¬ s.inFlight k → t.chip.mem.read k = s.chip.mem.read k)

/-- The ready test (R204): each class tests its own bits, and no other bit of the status byte matters. -/
def Obligations.ReadyTestReadsOnlyItsBits : Prop :=
  ∀ (c : Config) (p : PollClass) (b b' : Byte), c.wf = true →
    (ready c .program b = true ↔ b &&& c.busyMask = 0#8) ∧
    (ready c .erase b = true ↔ b &&& c.busyMask = 0#8 ∧ b &&& c.errMask = c.errExpect) ∧
    (c.errMask = 0#8 → ready c .erase b = ready c .program b) ∧
    (b &&& (c.busyMask ||| c.errMask) = b' &&& (c.busyMask ||| c.errMask) → ready c p b = ready c p b')

/-- Done: the advance of the class, the counter not decremented, also on the last read (R205). The chip's own
busy count and conduct are not spoken of. -/
def Obligations.ReadyStatusEndsThePollWithDone : Prop :=
  ∀ (s : State) (q : Xfer) (b : Byte) (rest : List Reply), s.fsm = .pollWait → s.x = some q →
    q.cmd = frameRdsr s.cfg → q.answerLength = 1 → s.replies = .answer (.ok [b]) :: rest →
    ready s.cfg s.pclass b = true →
    ∃ (cur : Addr) (chip : RefChip) (free : Nat), cur.toNat = (s.cur.toNat + s.chunk.toNat) % 2 ^ 24 ∧
      (s.pclass = .program → exec .rdsr s = .next
        { s with
          x := none, replies := rest, cur := cur, idx := s.idx + s.chunk, rem := s.rem - s.chunk
          fsm := .wrNext, chip := chip, free := free }) ∧
      (s.pclass = .erase → exec .rdsr s = .next
        { s with
          x := none, replies := rest, cur := cur, rem := s.rem - s.chunk, fsm := .erNext
          chip := chip, free := free })

/-- Not ready with budget left: the counter goes down by one and another status read follows (R206). The chip's
own busy count is not spoken of. -/
def Obligations.NotReadyStatusCountsDown : Prop :=
  ∀ (s : State) (q : Xfer) (b : Byte) (rest : List Reply), s.fsm = .pollWait → s.x = some q →
    q.cmd = frameRdsr s.cfg → q.answerLength = 1 → s.replies = .answer (.ok [b]) :: rest →
    ready s.cfg s.pclass b = false → s.ctr - 1#32 ≠ 0#32 →
    ∃ (chip : RefChip) (free : Nat), exec .rdsr s = .next
      { s with
        x := none, replies := rest, ctr := s.ctr - 1#32, fsm := .pollIssue, chip := chip, free := free }

/-- Not ready with the budget used up: the timeout of the class, no further read (R207). The chip is not spoken
of. -/
def Obligations.ExhaustedPollRaisesTheTimeoutOfItsClass : Prop :=
  ∀ (s : State) (q : Xfer) (b : Byte) (rest : List Reply), s.fsm = .pollWait → s.x = some q →
    q.cmd = frameRdsr s.cfg → q.answerLength = 1 → s.replies = .answer (.ok [b]) :: rest →
    ready s.cfg s.pclass b = false → s.ctr - 1#32 = 0#32 →
    ∃ (chip : RefChip) (free : Nat),
      (s.pclass = .program → exec .rdsr s = .next
        { s with
          x := none, replies := rest, ctr := 0#32, res := .error .programTimeout, fsm := .resp
          chip := chip, free := free }) ∧
      (s.pclass = .erase → exec .rdsr s = .next
        { s with
          x := none, replies := rest, ctr := 0#32, res := .error .eraseTimeout, fsm := .resp
          chip := chip, free := free })

/-! The end of a command. -/

/-- The host takes the result, whatever it is; FCF is in IDLE with the same geometry, and the next command is
taken (R232). -/
def Obligations.TakingTheResultReturnsToIdle : Prop :=
  ∀ s : State, s.cfg.wf = true → s.fsm = .resp →
    step s = .next { s with results := s.results ++ [s.res], fsm := .idle } ∧
    ∀ (c : HostCmd) (rest : List HostCmd), s.cmds = c :: rest →
      run 2 s = exec (decodeHost c.word)
        { s with
          results := s.results ++ [s.res], fsm := .idle, cmds := rest
          inBuf := c.inBuf.getD s.inBuf, outBuf := c.outBuf.getD s.outBuf }

/-! Frames. -/

/-- What a host command leaves unchanged. READ, WRITE and ERASE write `S.op`, `S.cur`, `S.rem`, `S.idx` and
`fsm`; INIT writes `S.op`, `fsm`, and either `RES` or `F`, `X` and the sequence of requests. Beside them the model's
own `pastCapacity` is written (log 31). Every byte of
FLASH and of both buffers is as before. -/
def Obligations.HostCommandFrame : Prop :=
  ∀ (s t : State) (i : Instr) (o : Addr) (l : Word),
    (i = .init o l ∨ i = .read o l ∨ i = .write o l ∨ i = .erase o l) → exec i s = .next t →
    (t.cfg = s.cfg ∧ t.g = s.g ∧ t.chunk = s.chunk ∧ t.ctr = s.ctr ∧ t.pclass = s.pclass ∧
      t.results = s.results ∧ t.cmds = s.cmds ∧ t.replies = s.replies ∧ t.free = s.free) ∧
    (t.chip = s.chip ∧ t.inBuf = s.inBuf ∧ t.outBuf = s.outBuf ∧
      (∀ a, t.chip.mem.read a = s.chip.mem.read a) ∧ (∀ k, t.inBuf.cells.read k = s.inBuf.cells.read k) ∧
      ∀ k, t.outBuf.cells.read k = s.outBuf.cells.read k) ∧
    (i = .init o l → t.cur = s.cur ∧ t.rem = s.rem ∧ t.idx = s.idx) ∧
    (i ≠ .init o l → t.f = s.f ∧ t.x = s.x ∧ t.trace = s.trace ∧ t.res = s.res)

/-- What the issue of a frame leaves unchanged: all but `F`, `X`, the sequence of requests and `fsm`; it stores
no byte. -/
def Obligations.FrameIssueFrame : Prop :=
  ∀ (s t : State) (i : Instr), i.level = .commandFrame → s.x = none → exec i s = .next t →
    (t.cfg = s.cfg ∧ t.g = s.g ∧ t.op = s.op ∧ t.cur = s.cur ∧ t.rem = s.rem ∧ t.idx = s.idx ∧
      t.chunk = s.chunk ∧ t.ctr = s.ctr ∧ t.pclass = s.pclass ∧ t.res = s.res ∧ t.results = s.results ∧
      t.cmds = s.cmds ∧ t.replies = s.replies ∧ t.pastCapacity = s.pastCapacity ∧ t.free = s.free) ∧
    (t.chip = s.chip ∧ t.inBuf = s.inBuf ∧ t.outBuf = s.outBuf ∧
      (∀ a, t.chip.mem.read a = s.chip.mem.read a) ∧ (∀ k, t.inBuf.cells.read k = s.inBuf.cells.read k) ∧
      ∀ k, t.outBuf.cells.read k = s.outBuf.cells.read k)

/-- What the completion of a frame leaves unchanged among the registers: only IDENT writes the geometry, only
FREAD and RDSR advance, only PROG, the erase frames and RDSR write the counter, only PROG and the erase frames
the poll class. -/
def Obligations.FrameCompletionFrame : Prop :=
  ∀ (s t : State) (i : Instr), i.level = .commandFrame → s.x ≠ none → exec i s = .next t →
    (t.cfg = s.cfg ∧ t.op = s.op ∧ t.chunk = s.chunk ∧ t.f = s.f ∧ t.trace = s.trace ∧
      t.results = s.results ∧ t.cmds = s.cmds ∧ t.inBuf = s.inBuf ∧ t.pastCapacity = s.pastCapacity) ∧
    (i ≠ .ident → t.g = s.g) ∧
    (i ≠ .rdsr → (∀ a, i ≠ .fread a) → t.cur = s.cur ∧ t.rem = s.rem ∧ t.idx = s.idx) ∧
    (i = .ident ∨ (∃ a, i = .fread a) → t.ctr = s.ctr) ∧
    (i = .ident ∨ i = .rdsr ∨ (∃ a, i = .fread a) → t.pclass = s.pclass) ∧
    ((∃ a, i = .fread a) ∨ t.outBuf = s.outBuf)

/-- Which bytes the completion of a frame stores to, for every answer: IDENT and FREAD no cell of FLASH; RDSR none
either, unless the poll fails on a real chip, and then only the cells of the chunk or sector in flight (log 9);
PROG only the cells its data bytes go to; an erase frame only its sector. What a real chip asked for a request past
its capacity stores to is any cell (U3, log 31). FREAD stores only to the chunk's bytes of OUT_BUF, the other frames
to no byte of it. (R62, R63; a failed transfer, log 9.) -/
def Obligations.FrameCompletionStoresOnlyItsBytes : Prop :=
  ∀ (s t : State) (i : Instr) (q : Xfer), s.x = some q → s.chip.mem.wf = true → s.outBuf.wf = true →
    q.wdata.length = (if q.dir = .wr then q.n.toNat else 0) → exec i s = .next t →
    ((i = .ident ∨ (∃ a, i = .fread a)) → ∀ k, t.chip.mem.read k = s.chip.mem.read k) ∧
    (i = .rdsr → ∀ k, (s.chip.conduct = .refchip ∨ t.fsm ≠ .resp ∨ (¬ s.beyond ∧ ¬ s.inFlight k)) →
      t.chip.mem.read k = s.chip.mem.read k) ∧
    (¬ s.beyond → ∀ a, i = .prog a → q.dir = .wr →
      ∀ k, (∀ j, j < q.n.toNat → k ≠ progTarget a.toNat j) → t.chip.mem.read k = s.chip.mem.read k) ∧
    (¬ s.beyond → ∀ a, i = .erase4k a →
      ∀ k, k / 4096 ≠ a.toNat / 4096 → t.chip.mem.read k = s.chip.mem.read k) ∧
    (¬ s.beyond → ∀ a, i = .erase64k a →
      ∀ k, k / 65536 ≠ a.toNat / 65536 → t.chip.mem.read k = s.chip.mem.read k) ∧
    (∀ a, i = .fread a → q.dir = .rd → q.n = s.chunk →
      ∀ k, (k < s.idx.toNat ∨ s.idx.toNat + s.chunk.toNat ≤ k) →
        t.outBuf.cells.read k = s.outBuf.cells.read k) ∧
    ((∀ a, i ≠ .fread a) → ∀ k, t.outBuf.cells.read k = s.outBuf.cells.read k)

/-! Rules of the whole machine. -/

/-- Once probed, the geometry never changes (R17). -/
def Obligations.GeometryIsImmutableOnceProbed : Prop :=
  ∀ s t : State, s.Inv → s.probed = true → step s = .next t → t.g = s.g

/-- The geometry is written only by a successful identify transfer, all five registers in one step, and it is
then INIT's result (R17, R125). Where the chip answers (log 5) the response is its identify response (R60), while what
it does is fixed; on a real chip that is unsettled, or past its capacity, it is any bytes (log 30, log 31). -/
def Obligations.GeometryIsWrittenWholeAndOnlyByIdentify : Prop :=
  ∀ s t : State, step s = .next t → t.g ≠ s.g →
    s.fsm = .probeWait ∧ t.fsm = .resp ∧ t.res = .ok (some t.g) ∧
    ∃ r : List Byte,
      (s.replies = .answer (.ok r) :: t.replies ∨
        (s.asksChip t.replies ∧ (s.chipFixed → r = s.chip.idResp))) ∧
      r.getD s.cfg.mfrIndex 0 = s.cfg.mfrExpected ∧
      t.g = ⟨s.cfg.mfrExpected, r.getD s.cfg.capIndex 0, 256,
        if r.getD s.cfg.capIndex 0 = 0x20 then 65536 else 4096, s.cfg.totalSizeConst⟩

/-- The parameters are constants of the instance: no step changes one (R30). -/
def Obligations.ConfigurationNeverChanges : Prop := ∀ s t : State, step s = .next t → t.cfg = s.cfg

/-- `fsm` advances only by the transitions of the table of R23; otherwise the step is a wait that changes
nothing (log 6, log 18). -/
def Obligations.SequencerFollowsTheTransitionTable : Prop :=
  ∀ s t : State, step s = .next t → t = s ∨ (s.fsm, t.fsm) ∈ fsmEdges

/-- A step issues at most one request, only with the slot empty, and the slot then holds it; no request is
ever taken out of the sequence (R50, R54). -/
def Obligations.OneTransferInFlight : Prop :=
  ∀ s t : State, step s = .next t →
    t.trace = s.trace ∨ (s.x = none ∧ ∃ q, t.x = some q ∧ t.trace = s.trace ++ [q])

/-- The poll is the only barrier: from the completion of a write-class frame until the poll ends, FCF issues
nothing but RDSR, and a loop head is reached only by Done of its own class: the transport's answer to a status
read was a ready status byte (R51, R201, R205). The request of every such read has length 1. -/
def Obligations.OnlyStatusReadsUntilThePollEnds : Prop :=
  ∀ s t : State, step s = .next t →
    (s.fsm = .wrWait ∨ s.fsm = .erWait ∨ s.fsm = .pollIssue ∨
      (s.fsm = .pollWait ∧ s.x = some (rdsrRequest s.cfg))) →
    (t.trace = s.trace ∨ t.trace = s.trace ++ [rdsrRequest s.cfg]) ∧
    (t.fsm = .wrNext ∨ t.fsm = .erNext → s.fsm = .pollWait ∧
      (t.fsm = .wrNext → s.pclass = .program) ∧ (t.fsm = .erNext → s.pclass = .erase) ∧
      ∃ b : Byte, ready s.cfg s.pclass b = true ∧
        (s.replies = .answer (.ok [b]) :: t.replies ∨
          (s.asksChip t.replies ∧
            (s.chipFixed →
              (s.chip.busyn = 0 → b = 0) ∧ (s.chip.busyn ≠ 0 → b = s.cfg.busyMask)))))

/-- Outside IDLE the words at the command port have no influence and are not taken (R52 (a), R233). -/
def Obligations.CommandPortIsIgnoredOutsideIdle : Prop :=
  ∀ (s : State) (l : List HostCmd), s.fsm ≠ .idle →
    step { s with cmds := l } = mapNext (fun t => { t with cmds := l }) (step s)

/-- READ reads no geometry register: it does the same before and after INIT (R146). -/
def Obligations.ReadIgnoresTheGeometry : Prop :=
  ∀ (s : State) (g : Geometry),
    (∀ o l, exec (.read o l) { s with g := g } = mapNext (fun t => { t with g := g }) (exec (.read o l) s)) ∧
    (s.fsm = .rdNext ∨ s.fsm = .rdWait →
      step { s with g := g } = mapNext (fun t => { t with g := g }) (step s))

/-- A transport that never completes leaves FCF as it is, for ever (R271). -/
def Obligations.SilentTransportHangsTheCommand : Prop :=
  ∀ (s : State) (rest : List Reply) (n : Nat), s.Inv → s.fsm.waits = true → s.replies = .silent :: rest →
    run n s = .next s

/-! Encoding. -/

/-- Decoding an encoded instruction gives it back, every operand at every value, in every instance (R70 to R79,
R83). -/
def Obligations.DecodeOfEncodeIsTheInstruction : Prop :=
  ∀ (c : Config) (i : Instr), c.wf = true → decode c (encode c i) = .ok i

/-- Encoding a decoded code gives it back: each code has one meaning and no bit is lost (R70 to R79, R83). -/
def Obligations.EncodeOfDecodeIsTheCode : Prop :=
  ∀ (c : Config) (code : Code) (i : Instr), decode c code = .ok i → encode c i = code

/-- `Enc4` and `Enc5` are injective in the address, and the address is read back big-endian from bytes 1 to 3
(R77, R100). -/
def Obligations.FrameAddressIsBigEndianAndInjective : Prop :=
  ∀ (opc d : Byte) (a a' : Addr),
    (enc4 opc a = enc4 opc a' → a = a') ∧ (enc5 opc a d = enc5 opc a' d → a = a') ∧
    a.toNat = ((enc4 opc a).getD 1 0).toNat * 65536 + ((enc4 opc a).getD 2 0).toNat * 256 +
      ((enc4 opc a).getD 3 0).toNat ∧
    a.toNat = ((enc5 opc a d).getD 1 0).toNat * 65536 + ((enc5 opc a d).getD 2 0).toNat * 256 +
      ((enc5 opc a d).getD 3 0).toNat ∧
    (enc4 opc a).length = 4 ∧ (enc5 opc a d).length = 5 ∧ (enc1 opc).length = 1

/-! Headlines. -/

/-- Every step keeps the invariant: among its clauses the geometry invariant (R16), the slot invariant (R26),
the shape of every request FCF has ever issued (R86, with the page containment of R166 (b)), the results
each command can return (R80), and that an error value FCF returns is of `TERR` (R220, D30). -/
def Obligations.StepKeepsTheInvariant : Prop := ∀ s t : State, s.Inv → step s = .next t → t.Inv

/-- The machine never stops while the host and the transport keep their duties. The duties of the host are about
the command it presents, in IDLE (R233). With a silent transport, and in IDLE with no command, the next state is
the same state: that such a wait is a step is the model's choice (log 6, log 18), U15 says FCF has no step there. -/
def Obligations.NoStopWhileDutiesAreKept : Prop :=
  ∀ s : State, s.Inv → s.hostOk → s.transportOk → ∃ t, step s = .next t

/-- The exact bound of the poll (R208): always not ready, exactly budget-many status reads and the timeout;
first ready at read `j`, exactly `j` reads, Done, and the counter at the budget less `j - 1`. -/
def Obligations.PollMakesExactlyBudgetManyReads : Prop :=
  ∀ (s : State) (bs : List Byte) (rest : List Reply), s.cfg.wf = true → s.fsm = .pollIssue → s.x = none →
    (∀ b ∈ bs, ready s.cfg s.pclass b = false) →
    (1 ≤ bs.length → bs.length = s.ctr.toNat →
      s.replies = bs.map (fun b => .answer (.ok [b])) ++ rest →
      ∃ t, run (2 * bs.length) s = .next t ∧ t.fsm = .resp ∧ t.ctr = 0#32 ∧ t.replies = rest ∧
        t.res = .error (match s.pclass with | .program => .programTimeout | .erase => .eraseTimeout) ∧
        t.trace = s.trace ++ List.replicate bs.length (rdsrRequest s.cfg)) ∧
    (∀ b : Byte, bs.length < s.ctr.toNat → ready s.cfg s.pclass b = true →
      s.replies = (bs ++ [b]).map (fun b => .answer (.ok [b])) ++ rest →
      ∃ t, run (2 * (bs.length + 1)) s = .next t ∧
        t.fsm = (match s.pclass with | .program => .wrNext | .erase => .erNext) ∧
        t.ctr.toNat = s.ctr.toNat - bs.length ∧ t.replies = rest ∧
        t.trace = s.trace ++ List.replicate (bs.length + 1) (rdsrRequest s.cfg))

/-- A READ whose transfers all succeed, each by a written answer, for any data, or by the chip's:
`ceil(length / MAX_XFER)` transfers, at the addresses and of the lengths of R145, and OUT_BUF holds the data of the
chunks in order, as of one single read (E2). What the chip answers, while what it does is fixed, are the cells from
the offset on, wrapping at `2^24` (R61, E5). -/
def Obligations.ReadReassemblesItsChunks : Prop :=
  ∀ (s : State) (ds : List (List Byte)), s.cfg.wf = true → s.fsm = .rdNext → s.x = none →
    s.idx.toNat + s.rem.toNat < 2 ^ 32 → s.idx.toNat + s.rem.toNat ≤ s.outBuf.size → s.outBuf.wf = true →
    ds.length = (s.rem.toNat + s.cfg.maxXfer.toNat - 1) / s.cfg.maxXfer.toNat →
    (∀ k, k < ds.length →
      (ds.getD k []).length = min s.cfg.maxXfer.toNat (s.rem.toNat - k * s.cfg.maxXfer.toNat)) →
    (∀ k, k < ds.length →
      s.replies[k]? = some (.answer (.ok (ds.getD k []))) ∨
        ((s.replies[k]? = some .chip ∨ s.replies[k]? = none) ∧ s.chipFixed ∧
          ∀ i, i < (ds.getD k []).length →
            (ds.getD k []).getD i 0 =
              s.chip.mem.read ((s.cur.toNat + k * s.cfg.maxXfer.toNat + i) % 2 ^ 24))) →
    ∃ t, run (2 * ds.length + 1) s = .next t ∧ t.fsm = .resp ∧ t.res = .ok none ∧
      t.replies = s.replies.drop ds.length ∧ t.chip = s.chip ∧
      t.trace = s.trace ++ (List.range ds.length).map (fun k =>
        { cmd := frameRead s.cfg (BitVec.ofNat 24 (s.cur.toNat + k * s.cfg.maxXfer.toNat))
          dir := .rd
          n := BitVec.ofNat 32 (min s.cfg.maxXfer.toNat (s.rem.toNat - k * s.cfg.maxXfer.toNat))
          wdata := [] }) ∧
      t.outBuf.size = s.outBuf.size ∧
      ∀ j, t.outBuf.cells.read j =
        if s.idx.toNat ≤ j ∧ j < s.idx.toNat + s.rem.toNat then ds.flatten.getD (j - s.idx.toNat) 0
        else s.outBuf.cells.read j

/-- A WRITE against REFCHIP, never busy for a whole budget: its PROG frames program `S.rem` bytes one after
another, byte `i` of IN_BUF at `offset + i`, each byte once; the region's cells are ANDed with them, and no other
cell changes; on erased cells the cells then hold the bytes written (R62, R166 (c); E5 with the READ's statement). So
for a settled real chip within its capacity (log 30, log 31). -/
def Obligations.WriteProgramsExactlyItsRegion : Prop :=
  ∀ s : State, s.Inv → s.fsm = .wrNext → (∀ r ∈ s.replies, r = .chip) → s.chipFixed →
    (∀ k ∈ s.chip.ks, k < s.cfg.progBudget.toNat) → s.cur.toNat + s.rem.toNat ≤ 2 ^ 24 →
    ∃ n t, run n s = .next t ∧ t.fsm = .resp ∧ t.res = .ok none ∧ t.inBuf = s.inBuf ∧
      (∃ more, t.trace = s.trace ++ more ∧
        progsCover s.cfg s.inBuf s.cur.toNat s.idx.toNat s.rem.toNat (more.filter fun q => q.dir == .wr)) ∧
      (∀ i, i < s.rem.toNat →
        t.chip.mem.read (s.cur.toNat + i) =
          s.chip.mem.read (s.cur.toNat + i) &&& s.inBuf.cells.read (s.idx.toNat + i)) ∧
      (∀ i, i < s.rem.toNat → s.chip.mem.read (s.cur.toNat + i) = 0xFF →
        t.chip.mem.read (s.cur.toNat + i) = s.inBuf.cells.read (s.idx.toNat + i)) ∧
      (∀ a, (a < s.cur.toNat ∨ s.cur.toNat + s.rem.toNat ≤ a) →
        t.chip.mem.read a = s.chip.mem.read a)

/-- An aligned ERASE against REFCHIP, never busy for a whole budget: one erase frame per sector at the
addresses of R187, every cell of the region `0xFF`, every other cell as it was (R63, R187). So for a settled real chip
within its capacity (log 30, log 31). -/
def Obligations.EraseErasesExactlyItsSectors : Prop :=
  ∀ s : State, s.Inv → s.fsm = .erNext → (∀ r ∈ s.replies, r = .chip) → s.chipFixed →
    s.cfg.errExpect = 0#8 →
    (∀ k ∈ s.chip.ks, k < s.cfg.eraseBudget.toNat) → s.cur.toNat + s.rem.toNat ≤ 2 ^ 24 →
    ∃ n t, run n s = .next t ∧ t.fsm = .resp ∧ t.res = .ok none ∧
      (∃ more, t.trace = s.trace ++ more ∧
        more.filter (fun q => q.dir == .none) =
          (List.range (s.rem.toNat / s.g.sectorSize.toNat)).map (fun k =>
            { cmd :=
                if s.g.sectorSize = 65536 then
                  frameErase64K s.cfg (BitVec.ofNat 24 (s.cur.toNat + k * s.g.sectorSize.toNat))
                else frameErase4K s.cfg (BitVec.ofNat 24 (s.cur.toNat + k * s.g.sectorSize.toNat))
              dir := .none, n := 0#32, wdata := [] })) ∧
      ∀ a, t.chip.mem.read a =
        if s.cur.toNat ≤ a ∧ a < s.cur.toNat + s.rem.toNat then 0xFF else s.chip.mem.read a

/-- Every host command ends when every transfer it issues completes, whatever the answers: FCF comes back to
IDLE with one more result, after at most the transfers R271 counts (INIT's one is already issued in PROBE_WAIT).
That the host takes the result at once is the model's choice (log 18). -/
def Obligations.EveryCommandEnds : Prop :=
  ∀ s : State, s.Inv → s.fsm ≠ .idle → s.everyTransferCompletes →
    ∃ n t, run n s = .next t ∧ t.fsm = .idle ∧ t.results.length = s.results.length + 1 ∧ t.cmds = s.cmds ∧
      (s.fsm = .probeWait → t.trace = s.trace) ∧
      (s.fsm = .rdNext → t.trace.length ≤
        s.trace.length + (s.rem.toNat + s.cfg.maxXfer.toNat - 1) / s.cfg.maxXfer.toNat) ∧
      (s.fsm = .wrNext → t.trace.length ≤ s.trace.length + s.rem.toNat * (1 + s.cfg.progBudget.toNat)) ∧
      (s.fsm = .erCheck → t.trace.length ≤
        s.trace.length + s.rem.toNat / s.g.sectorSize.toNat * (1 + s.cfg.eraseBudget.toNat))

/-! REFCHIP. -/

/-- PROG against REFCHIP: byte `i` is ANDed into the cell it targets, wrapping inside the 256-byte page, and the
chip is busy for the next `K` status reads (R62). So for a settled real chip within its capacity (log 30, log 31). -/
def Obligations.RefchipProgramsInsideThePage : Prop :=
  ∀ (s : State) (a : Addr) (q : Xfer) (rest : List Reply), s.fsm = .wrWait → s.x = some q →
    q.cmd = frameProg s.cfg a → q.dir = .wr → s.asksChip rest → s.chipFixed → s.chip.mem.wf = true →
    q.wdata.length ≤ 256 →
    ∃ t, exec (.prog a) s = .next t ∧ t.replies = rest ∧ t.chip.busyn = s.chip.ks.headD 0 ∧
      t.chip.ks = s.chip.ks.tail ∧
      (∀ i, i < q.wdata.length →
        t.chip.mem.read (a.toNat - a.toNat % 256 + (a.toNat % 256 + i) % 256) =
          s.chip.mem.read (a.toNat - a.toNat % 256 + (a.toNat % 256 + i) % 256) &&& q.wdata.getD i 0) ∧
      (∀ k, (∀ i, i < q.wdata.length → k ≠ a.toNat - a.toNat % 256 + (a.toNat % 256 + i) % 256) →
        t.chip.mem.read k = s.chip.mem.read k)

/-- The erase frames against REFCHIP: the sector that holds the address becomes `0xFF`, no other cell changes,
and the chip is busy for the next `K` status reads (R63). So for a settled real chip within its capacity (log 30, log
31). -/
def Obligations.RefchipErasesTheSector : Prop :=
  ∀ (s : State) (a : Addr) (q : Xfer) (rest : List Reply), s.fsm = .erWait → s.x = some q → q.dir = .none →
    s.asksChip rest → s.chipFixed → s.chip.mem.wf = true →
    (q.cmd = frameErase4K s.cfg a → ∃ t, exec (.erase4k a) s = .next t ∧
      t.replies = rest ∧ t.chip.busyn = s.chip.ks.headD 0 ∧ t.chip.ks = s.chip.ks.tail ∧
      ∀ k, t.chip.mem.read k = if k / 4096 = a.toNat / 4096 then 0xFF else s.chip.mem.read k) ∧
    (q.cmd = frameErase64K s.cfg a → ∃ t, exec (.erase64k a) s = .next t ∧
      t.replies = rest ∧ t.chip.busyn = s.chip.ks.headD 0 ∧ t.chip.ks = s.chip.ks.tail ∧
      ∀ k, t.chip.mem.read k = if k / 65536 = a.toNat / 65536 then 0xFF else s.chip.mem.read k)
end

