-- ==== Sys2Proof/Laws/Decode.lean ====
section
/-! SUPPORT. Small laws of the encoder and the decoder: the fields of a word, the bytes of an address. -/

namespace Sys2Proof

@[simp] theorem joinAddr_addrBytes (addr : Addr) :
    joinAddr (addrHigh addr) (addrMid addr) (addrLow addr) = addr := by
  unfold joinAddr addrHigh addrMid addrLow
  ext i hi
  simp only [BitVec.getElem_append, BitVec.getElem_extractLsb']
  split
  · simp [← BitVec.getLsbD_eq_getElem]
  · split <;> (simp only [← BitVec.getLsbD_eq_getElem]; congr 1; omega)

@[simp] theorem addrHigh_joinAddr (b1 b2 b3 : Byte) : addrHigh (joinAddr b1 b2 b3) = b1 := by
  unfold joinAddr addrHigh
  ext i hi
  simp only [BitVec.getElem_extractLsb', BitVec.getLsbD_append]
  rw [if_neg (by omega), if_neg (by omega), ← BitVec.getLsbD_eq_getElem]
  congr 1
  omega

@[simp] theorem addrMid_joinAddr (b1 b2 b3 : Byte) : addrMid (joinAddr b1 b2 b3) = b2 := by
  unfold joinAddr addrMid
  ext i hi
  simp only [BitVec.getElem_extractLsb', BitVec.getLsbD_append]
  rw [if_neg (by omega), if_pos (by omega), ← BitVec.getLsbD_eq_getElem]
  congr 1
  omega

@[simp] theorem addrLow_joinAddr (b1 b2 b3 : Byte) : addrLow (joinAddr b1 b2 b3) = b3 := by
  unfold joinAddr addrLow
  ext i hi
  simp only [BitVec.getElem_extractLsb', BitVec.getLsbD_append]
  rw [if_pos (by omega), ← BitVec.getLsbD_eq_getElem]
  congr 1
  omega

@[simp] theorem hostOp_hostWord (op : BitVec 2) (o : Addr) (l : Word) : hostOp (hostWord op o l) = op := by
  unfold hostOp hostWord
  ext i hi
  simp only [BitVec.getElem_extractLsb', BitVec.getLsbD_append]
  rw [if_neg (by omega), if_neg (by omega), ← BitVec.getLsbD_eq_getElem]
  congr 1
  omega

@[simp] theorem hostOffset_hostWord (op : BitVec 2) (o : Addr) (l : Word) :
    hostOffset (hostWord op o l) = o := by
  unfold hostOffset hostWord
  ext i hi
  simp only [BitVec.getElem_extractLsb', BitVec.getLsbD_append]
  rw [if_neg (by omega), if_pos (by omega), ← BitVec.getLsbD_eq_getElem]
  congr 1
  omega

@[simp] theorem hostLength_hostWord (op : BitVec 2) (o : Addr) (l : Word) :
    hostLength (hostWord op o l) = l := by
  unfold hostLength hostWord
  ext i hi
  simp only [BitVec.getElem_extractLsb', BitVec.getLsbD_append]
  rw [if_pos (by omega), ← BitVec.getLsbD_eq_getElem]
  congr 1
  omega

/-- A word is its three fields. -/
theorem hostWord_fields (w : HostWord) : hostWord (hostOp w) (hostOffset w) (hostLength w) = w := by
  unfold hostWord hostOp hostOffset hostLength
  ext i hi
  simp only [BitVec.getElem_append, BitVec.getElem_extractLsb']
  split
  · simp [← BitVec.getLsbD_eq_getElem]
  · split <;> (simp only [← BitVec.getLsbD_eq_getElem]; congr 1; omega)

end Sys2Proof
end

