-- ==== Sys2Proof/Laws/Memory.lean ====
section
/-! SUPPORT. The laws of memory: read after write, the canonical form kept by every operation, equal
contents are equal data. -/

namespace Sys2Proof.Machine

/-! Reading after writing. -/

@[simp] theorem Memory.read_nil (a : Nat) : Memory.read [] a = unlistedByte := rfl

theorem Memory.read_of_lt {m : Memory} {a : Nat} (h : m.all (fun cell => decide (a < cell.1)) = true) :
    m.read a = unlistedByte := by
  induction m with
  | nil => rfl
  | cons cell m ih =>
    simp only [List.all_cons, Bool.and_eq_true, decide_eq_true_eq] at h
    simp only [Memory.read]
    rw [if_neg (by omega), ih h.2]

theorem Memory.wf_cons {a : Nat} {v : Byte} {m : Memory} :
    Memory.wf ((a, v) :: m) = true ↔
      v ≠ unlistedByte ∧ m.all (fun cell => decide (a < cell.1)) = true ∧ m.wf = true := by
  simp only [Memory.wf, Bool.and_eq_true, bne_iff_ne, ne_eq, and_assoc]

theorem Memory.all_lt_trans {m : Memory} {a b : Nat} (hab : a < b)
    (h : m.all (fun cell => decide (b < cell.1)) = true) : m.all (fun cell => decide (a < cell.1)) = true := by
  simp only [List.all_eq_true, decide_eq_true_eq] at h ⊢
  intro cell hc
  exact hab.trans (h cell hc)

/-- Read after write, of a canonical memory. -/
theorem Memory.read_write {m : Memory} (h : m.wf = true) (a : Nat) (v : Byte) (i : Nat) :
    (m.write a v).read i = if i = a then v else m.read i := by
  induction m with
  | nil =>
    by_cases hv : v = unlistedByte
    · simp [Memory.write, hv]
    · simp [Memory.write, hv, Memory.read]
  | cons cell m ih =>
    obtain ⟨b, w⟩ := cell
    obtain ⟨hw, hall, hm⟩ := Memory.wf_cons.mp h
    simp only [Memory.write]
    by_cases hab : a < b
    · rw [if_pos hab]
      have hlt := Memory.read_of_lt (Memory.all_lt_trans hab hall)
      by_cases hv : v = unlistedByte
      · rw [if_pos hv]
        split
        · next hi => subst hi; simp only [Memory.read]; rw [if_neg (by omega), hlt, hv]
        · rfl
      · rw [if_neg hv]; simp only [Memory.read]
    · rw [if_neg hab]
      by_cases he : a = b
      · subst he
        rw [if_pos rfl]
        by_cases hv : v = unlistedByte
        · rw [if_pos hv]
          split
          · next hi => subst hi; rw [Memory.read_of_lt hall, hv]
          · next hi => simp only [Memory.read]; rw [if_neg hi]
        · rw [if_neg hv]; simp only [Memory.read]; split <;> rfl
      · rw [if_neg he]; simp only [Memory.read]; rw [ih hm]
        by_cases hib : i = b
        · rw [if_pos hib, if_neg (by omega), if_pos hib]
        · rw [if_neg hib, if_neg hib]

/-! The canonical form. -/

theorem Memory.all_write {m : Memory} {p : Host.Cell → Bool} {a : Nat} {v : Byte} (h : m.all p = true)
    (ha : p (a, v) = true) : (m.write a v).all p = true := by
  induction m with
  | nil => simp only [Memory.write]; split <;> simp [ha]
  | cons cell m ih =>
    obtain ⟨b, w⟩ := cell
    simp only [List.all_cons, Bool.and_eq_true] at h
    simp only [Memory.write]
    split
    · split <;> simp [h, ha]
    · split
      · split
        · exact h.2
        · simp [h.2, ha]
      · simp only [List.all_cons, Bool.and_eq_true]; exact ⟨h.1, ih h.2⟩

theorem Memory.write_wf {m : Memory} (h : m.wf = true) (a : Nat) (v : Byte) : (m.write a v).wf = true := by
  induction m with
  | nil =>
    simp only [Memory.write]
    split
    · rfl
    · next hv => exact Memory.wf_cons.mpr ⟨hv, rfl, rfl⟩
  | cons cell m ih =>
    obtain ⟨b, w⟩ := cell
    obtain ⟨hw, hall, hm⟩ := Memory.wf_cons.mp h
    simp only [Memory.write]
    split
    · next hab =>
      split
      · exact h
      · next hv =>
        refine Memory.wf_cons.mpr ⟨hv, ?_, h⟩
        simp only [List.all_cons, Bool.and_eq_true, decide_eq_true_eq]
        exact ⟨hab, Memory.all_lt_trans hab hall⟩
    · next hab =>
      split
      · next he =>
        split
        · exact hm
        · next hv => exact Memory.wf_cons.mpr ⟨hv, he ▸ hall, hm⟩
      · next he =>
        refine Memory.wf_cons.mpr ⟨hw, Memory.all_write hall ?_, ih hm⟩
        simp only [decide_eq_true_eq]; omega

theorem Memory.below_write {m : Memory} {n : Nat} (h : m.below n = true) {a : Nat} (ha : a < n) (v : Byte) :
    (m.write a v).below n = true :=
  Memory.all_write h (by simpa using ha)

theorem Memory.writeBytes_wf {m : Memory} (h : m.wf = true) (a : Nat) (vs : List Byte) :
    (m.writeBytes a vs).wf = true := by
  induction vs generalizing m a with
  | nil => exact h
  | cons v vs ih => exact ih (Memory.write_wf h a v) (a + 1)

theorem Memory.below_writeBytes {m : Memory} {n : Nat} (h : m.below n = true) {a : Nat} {vs : List Byte}
    (ha : a + vs.length ≤ n) : (m.writeBytes a vs).below n = true := by
  induction vs generalizing m a with
  | nil => exact h
  | cons v vs ih =>
    simp only [List.length_cons] at ha
    exact ih (Memory.below_write h (by omega) v) (by omega)

/-- What is read after a byte sequence is written. -/
theorem Memory.read_writeBytes {m : Memory} (h : m.wf = true) (a : Nat) (vs : List Byte) (i : Nat) :
    (m.writeBytes a vs).read i =
      if a ≤ i ∧ i < a + vs.length then vs.getD (i - a) 0 else m.read i := by
  induction vs generalizing m a with
  | nil => simp only [Memory.writeBytes, List.length_nil]; rw [if_neg (by omega)]
  | cons v vs ih =>
    simp only [Memory.writeBytes, List.length_cons]
    rw [ih (Memory.write_wf h a v), Memory.read_write h]
    by_cases hi : i = a
    · subst hi
      rw [if_neg (by omega), if_pos rfl, if_pos (by omega)]
      simp
    · by_cases hin : a + 1 ≤ i ∧ i < a + 1 + vs.length
      · rw [if_pos hin, if_pos (by omega)]
        obtain ⟨k, rfl⟩ : ∃ k, i = a + 1 + k := ⟨i - (a + 1), by omega⟩
        rw [show a + 1 + k - (a + 1) = k by omega, show a + 1 + k - a = k + 1 by omega, List.getD_cons_succ]
      · rw [if_neg hin, if_neg hi, if_neg (by omega)]

theorem Memory.all_filter {m : Memory} {p q : Host.Cell → Bool} (h : m.all p = true) :
    (List.filter q m).all p = true := by
  simp only [List.all_eq_true, List.mem_filter] at h ⊢
  exact fun cell hc => h cell hc.1

theorem Memory.wipe_wf {m : Memory} (h : m.wf = true) (a n : Nat) : (m.wipe a n).wf = true := by
  induction m with
  | nil => rfl
  | cons cell m ih =>
    obtain ⟨b, w⟩ := cell
    obtain ⟨hw, hall, hm⟩ := Memory.wf_cons.mp h
    simp only [Memory.wipe, List.filter_cons]
    split
    · exact Memory.wf_cons.mpr ⟨hw, Memory.all_filter hall, ih hm⟩
    · exact ih hm

theorem Memory.below_wipe {m : Memory} {k : Nat} (h : m.below k = true) (a n : Nat) :
    (m.wipe a n).below k = true :=
  Memory.all_filter h

/-- What is read after a range is wiped. -/
theorem Memory.read_wipe {m : Memory} (h : m.wf = true) (a n i : Nat) :
    (m.wipe a n).read i = if a ≤ i ∧ i < a + n then unlistedByte else m.read i := by
  induction m with
  | nil => simp [Memory.wipe]
  | cons cell m ih =>
    obtain ⟨b, w⟩ := cell
    obtain ⟨-, hall, hm⟩ := Memory.wf_cons.mp h
    have ih := ih hm
    simp only [Memory.wipe] at ih
    simp only [Memory.wipe, List.filter_cons]
    split
    · next hb =>
      simp only [Bool.not_eq_true', Bool.and_eq_false_iff, decide_eq_false_iff_not] at hb
      simp only [Memory.read]
      by_cases hib : i = b
      · rw [if_pos hib, if_pos hib, if_neg (by omega)]
      · rw [if_neg hib, if_neg hib, ih]
    · next hb =>
      simp only [Bool.not_eq_true', Bool.and_eq_false_iff, decide_eq_false_iff_not, not_or, not_not] at hb
      rw [ih]
      by_cases hin : a ≤ i ∧ i < a + n
      · rw [if_pos hin, if_pos hin]
      · rw [if_neg hin, if_neg hin]
        simp only [Memory.read]
        rw [if_neg (by omega)]

/-- Equal contents are equal data. -/
theorem Memory.eq_of_read_eq {m m' : Memory} (h : m.wf = true) (h' : m'.wf = true)
    (heq : ∀ i, m.read i = m'.read i) : m = m' := by
  induction m generalizing m' with
  | nil =>
    cases m' with
    | nil => rfl
    | cons cell m' =>
      obtain ⟨b, w⟩ := cell
      have := heq b
      simp only [Memory.read, if_true] at this
      exact absurd this.symm (Memory.wf_cons.mp h').1
  | cons cell m ih =>
    obtain ⟨a, v⟩ := cell
    obtain ⟨hv, hall, hm⟩ := Memory.wf_cons.mp h
    cases m' with
    | nil =>
      have := heq a
      simp only [Memory.read, if_true] at this
      exact absurd this hv
    | cons cell' m' =>
      obtain ⟨b, w⟩ := cell'
      obtain ⟨hw, hall', hm'⟩ := Memory.wf_cons.mp h'
      have hab : a = b := by
        rcases Nat.lt_trichotomy a b with hlt | he | hgt
        · have := heq a
          simp only [Memory.read, if_true] at this
          rw [if_neg (by omega), Memory.read_of_lt (Memory.all_lt_trans hlt hall')] at this
          exact absurd this hv
        · exact he
        · have := heq b
          simp only [Memory.read, if_true] at this
          rw [if_neg (by omega), Memory.read_of_lt (Memory.all_lt_trans hgt hall)] at this
          exact absurd this.symm hw
      subst hab
      have hvw : v = w := by simpa [Memory.read] using heq a
      subst hvw
      rw [ih hm hm' ?_]
      intro i
      by_cases hi : i = a
      · subst hi; rw [Memory.read_of_lt hall, Memory.read_of_lt hall']
      · simpa [Memory.read, hi] using heq i

/-! Byte sequences. -/

@[simp] theorem Memory.readBytes_length (m : Memory) (a n : Nat) : (m.readBytes a n).length = n := by
  induction n generalizing a with
  | zero => rfl
  | succ n ih => simp [Memory.readBytes, ih]

theorem Memory.readBytes_getD (m : Memory) (a n i : Nat) (h : i < n) :
    (m.readBytes a n).getD i 0 = m.read (a + i) := by
  induction n generalizing a i with
  | zero => omega
  | succ n ih =>
    cases i with
    | zero => simp [Memory.readBytes]
    | succ i =>
      rw [Memory.readBytes, List.getD_cons_succ, ih (a + 1) i (by omega), show a + 1 + i = a + (i + 1) by omega]

@[simp] theorem freeBytes_length (k n : Nat) : (freeBytes k n).length = n := by
  induction n generalizing k with
  | zero => rfl
  | succ n ih => simp [freeBytes, ih]

@[simp] theorem flashBytes_length (m : Memory) (a n : Nat) : (flashBytes m a n).length = n := by
  induction n generalizing a with
  | zero => rfl
  | succ n ih => simp [flashBytes, ih]

theorem flashBytes_getD (m : Memory) (a n i : Nat) (h : i < n) :
    (flashBytes m a n).getD i 0 = m.read ((a + i) % 2 ^ 24) := by
  induction n generalizing a i with
  | zero => omega
  | succ n ih =>
    cases i with
    | zero => simp [flashBytes]
    | succ i =>
      rw [flashBytes, List.getD_cons_succ, ih (a + 1) i (by omega), show a + 1 + i = a + (i + 1) by omega]

/-! Buffers. -/

theorem Buffer.read_eq_some {b : Buffer} {i n : Nat} (h : i + n ≤ b.size) :
    b.read i n = some (b.cells.readBytes i n) := if_pos h

theorem Buffer.write_eq_some {b : Buffer} {i : Nat} {vs : List Byte} (h : i + vs.length ≤ b.size) :
    b.write i vs = some { b with cells := b.cells.writeBytes i vs } := if_pos h

theorem Buffer.write_cases {b b' : Buffer} {i : Nat} {vs : List Byte} (h : b.write i vs = some b') :
    i + vs.length ≤ b.size ∧ b' = { b with cells := b.cells.writeBytes i vs } := by
  unfold Buffer.write at h
  split at h
  · next hle => exact ⟨hle, by simpa using h.symm⟩
  · simp at h

theorem Buffer.write_wf {b b' : Buffer} {i : Nat} {vs : List Byte} (hb : b.wf = true)
    (h : b.write i vs = some b') : b'.wf = true := by
  obtain ⟨hle, rfl⟩ := Buffer.write_cases h
  simp only [Buffer.wf, Bool.and_eq_true] at hb ⊢
  exact ⟨Memory.writeBytes_wf hb.1 i vs, Memory.below_writeBytes hb.2 hle⟩

/-! REFCHIP's memory. -/

theorem progTarget_lt {a i : Nat} (h : a < 2 ^ 24) : progTarget a i < 2 ^ 24 := by
  unfold progTarget; omega

theorem progBytes_wf {m : Memory} (h : m.wf = true) (a i : Nat) (ds : List Byte) :
    (progBytes m a i ds).wf = true := by
  induction ds generalizing m i with
  | nil => exact h
  | cons d ds ih => exact ih (Memory.write_wf h _ _) (i + 1)

theorem below_progBytes {m : Memory} (h : m.below (2 ^ 24) = true) {a : Nat} (ha : a < 2 ^ 24) (i : Nat)
    (ds : List Byte) : (progBytes m a i ds).below (2 ^ 24) = true := by
  induction ds generalizing m i with
  | nil => exact h
  | cons d ds ih => exact ih (Memory.below_write h (progTarget_lt ha) _) (i + 1)

theorem overwriteChunk_wf {m : Memory} (h : m.wf = true) (a i : Nat) (ds : List Byte) :
    (overwriteChunk m a i ds).wf = true := by
  induction ds generalizing m i with
  | nil => exact h
  | cons d ds ih => exact ih (Memory.write_wf h _ _) (i + 1)

theorem below_overwriteChunk {m : Memory} (h : m.below (2 ^ 24) = true) {a : Nat} (ha : a < 2 ^ 24) (i : Nat)
    (ds : List Byte) : (overwriteChunk m a i ds).below (2 ^ 24) = true := by
  induction ds generalizing m i with
  | nil => exact h
  | cons d ds ih => exact ih (Memory.below_write h (progTarget_lt ha) _) (i + 1)

/-- A PROG leaves every cell alone that is none of its targets. -/
theorem progBytes_read_other {m : Memory} (h : m.wf = true) {a i : Nat} {ds : List Byte} {k : Nat}
    (hk : ∀ j, j < ds.length → k ≠ progTarget a (i + j)) : (progBytes m a i ds).read k = m.read k := by
  induction ds generalizing m i with
  | nil => rfl
  | cons d ds ih =>
    rw [progBytes, ih (Memory.write_wf h _ _) ?_, Memory.read_write h, if_neg (by simpa using hk 0 (by simp))]
    intro j hj
    have := hk (j + 1) (by simpa using hj)
    rwa [show i + (j + 1) = i + 1 + j by omega] at this

/-- A failed PROG leaves every cell alone that is none of its targets. -/
theorem overwriteChunk_read_other {m : Memory} (h : m.wf = true) {a i : Nat} {ds : List Byte} {k : Nat}
    (hk : ∀ j, j < ds.length → k ≠ progTarget a (i + j)) : (overwriteChunk m a i ds).read k = m.read k := by
  induction ds generalizing m i with
  | nil => rfl
  | cons d ds ih =>
    rw [overwriteChunk, ih (Memory.write_wf h _ _) ?_, Memory.read_write h, if_neg (by simpa using hk 0 (by simp))]
    intro j hj
    have := hk (j + 1) (by simpa using hj)
    rwa [show i + (j + 1) = i + 1 + j by omega] at this

/-! The chip's side of a transfer, by its cells. The sizes are variables here: with a sector's size as a numeral
Lean would unfold that many free bytes. -/

theorem State.chunkUnknown_read {s : State} (h : s.chip.mem.wf = true) (addr : Addr) (n k : Nat)
    (hk : ∀ j, j < n → k ≠ progTarget addr.toNat j) :
    (s.chunkUnknown addr n).chip.mem.read k = s.chip.mem.read k :=
  overwriteChunk_read_other h (by simpa using hk)

theorem State.chunkUnknown_wf {s : State} (h : s.chip.mem.wf = true) (addr : Addr) (n : Nat) :
    (s.chunkUnknown addr n).chip.mem.wf = true :=
  overwriteChunk_wf h _ _ _

theorem State.chunkUnknown_below {s : State} (h : s.chip.mem.below (2 ^ 24) = true) (addr : Addr) (n : Nat) :
    (s.chunkUnknown addr n).chip.mem.below (2 ^ 24) = true :=
  below_overwriteChunk h addr.isLt _ _

theorem State.sectorUnknown_read {s : State} (h : s.chip.mem.wf = true) (addr : Addr) (n k : Nat)
    (hk : k < addr.toNat - addr.toNat % n ∨ addr.toNat - addr.toNat % n + n ≤ k) :
    (s.sectorUnknown addr n).chip.mem.read k = s.chip.mem.read k := by
  show (s.chip.mem.writeBytes _ _).read k = _
  rw [Memory.read_writeBytes h, if_neg (by simp; omega)]

theorem State.sectorUnknown_wf {s : State} (h : s.chip.mem.wf = true) (addr : Addr) (n : Nat) :
    (s.sectorUnknown addr n).chip.mem.wf = true :=
  Memory.writeBytes_wf h _ _

theorem State.sectorUnknown_below {s : State} (h : s.chip.mem.below (2 ^ 24) = true) (addr : Addr) {n : Nat}
    (hn : addr.toNat - addr.toNat % n + n ≤ 2 ^ 24) :
    (s.sectorUnknown addr n).chip.mem.below (2 ^ 24) = true :=
  Memory.below_writeBytes h (by simpa using hn)

theorem State.flashUnknown_wf {s : State} (h : s.chip.mem.wf = true) : s.flashUnknown.chip.mem.wf = true :=
  Memory.writeBytes_wf h _ _

theorem State.flashUnknown_below {s : State} (h : s.chip.mem.below flashSize = true) :
    s.flashUnknown.chip.mem.below flashSize = true :=
  Memory.below_writeBytes h (by rw [Nat.zero_add]; exact List.length_take_le _ _)

/-! Within the capacity, or with REFCHIP, an unknown effect is on the chunk or sector alone. -/

theorem State.progUnknown_near {s : State} (hb : ¬ s.beyond) (addr : Addr) (n : Nat) :
    s.progUnknown addr n = s.chunkUnknown addr n :=
  if_neg hb

theorem State.eraseUnknown_near {s : State} (hb : ¬ s.beyond) (addr : Addr) (n : Nat) :
    s.eraseUnknown addr n = s.sectorUnknown addr n :=
  if_neg hb

theorem State.progUnknown_wf {s : State} (h : s.chip.mem.wf = true) (addr : Addr) (n : Nat) :
    (s.progUnknown addr n).chip.mem.wf = true := by
  unfold State.progUnknown
  split
  · exact State.flashUnknown_wf h
  · exact State.chunkUnknown_wf h _ _

theorem State.progUnknown_below {s : State} (h : s.chip.mem.below (2 ^ 24) = true) (addr : Addr) (n : Nat) :
    (s.progUnknown addr n).chip.mem.below (2 ^ 24) = true := by
  unfold State.progUnknown
  split
  · exact State.flashUnknown_below h
  · exact State.chunkUnknown_below h _ _

theorem State.eraseUnknown_wf {s : State} (h : s.chip.mem.wf = true) (addr : Addr) (n : Nat) :
    (s.eraseUnknown addr n).chip.mem.wf = true := by
  unfold State.eraseUnknown
  split
  · exact State.flashUnknown_wf h
  · exact State.sectorUnknown_wf h _ _

theorem State.eraseUnknown_below {s : State} (h : s.chip.mem.below (2 ^ 24) = true) (addr : Addr) {n : Nat}
    (hn : addr.toNat - addr.toNat % n + n ≤ 2 ^ 24) : (s.eraseUnknown addr n).chip.mem.below (2 ^ 24) = true := by
  unfold State.eraseUnknown
  split
  · exact State.flashUnknown_below h
  · exact State.sectorUnknown_below h _ hn

theorem State.inFlightUnknown_read {s : State} (h : s.chip.mem.wf = true) (hb : ¬ s.beyond) {k : Nat}
    (hk : ¬ s.inFlight k) :
    s.inFlightUnknown.chip.mem.read k = s.chip.mem.read k := by
  unfold State.inFlightUnknown
  unfold State.inFlight at hk
  split
  · rfl
  · split
    · next hp =>
      rw [hp] at hk
      rw [State.progUnknown_near hb]
      exact State.chunkUnknown_read h _ _ _ fun j hj he => hk ⟨j, hj, he⟩
    · next hp =>
      rw [hp] at hk
      rw [State.eraseUnknown_near hb]
      exact State.sectorUnknown_read h _ _ _ (by simp only [not_and_or, Nat.not_le, Nat.not_lt] at hk; exact hk)

theorem State.inFlightUnknown_wf {s : State} (h : s.chip.mem.wf = true) : s.inFlightUnknown.chip.mem.wf = true := by
  unfold State.inFlightUnknown
  split
  · exact h
  · split
    · exact State.progUnknown_wf h _ _
    · exact State.eraseUnknown_wf h _ _

theorem State.inFlightUnknown_below {s : State} (h : s.chip.mem.below (2 ^ 24) = true)
    (hn : s.pclass = .erase → s.cur.toNat - s.cur.toNat % s.chunk.toNat + s.chunk.toNat ≤ 2 ^ 24) :
    s.inFlightUnknown.chip.mem.below (2 ^ 24) = true := by
  unfold State.inFlightUnknown
  split
  · exact h
  · split
    · exact State.progUnknown_below h _ _
    · next hp => exact State.eraseUnknown_below h _ (hn hp)

theorem RefChip.erase_read {c : RefChip} (h : c.mem.wf = true) (addr : Addr) (n k : Nat) :
    (RefChip.erase n addr c).2.mem.read k =
      if addr.toNat - addr.toNat % n ≤ k ∧ k < addr.toNat - addr.toNat % n + n then unlistedByte
      else c.mem.read k :=
  Memory.read_wipe h _ _ _

theorem RefChip.erase_wf {c : RefChip} (h : c.mem.wf = true) (addr : Addr) (n : Nat) :
    (RefChip.erase n addr c).2.mem.wf = true :=
  Memory.wipe_wf h _ _

theorem RefChip.erase_below {c : RefChip} {b : Nat} (h : c.mem.below b = true) (addr : Addr) (n : Nat) :
    (RefChip.erase n addr c).2.mem.below b = true :=
  Memory.below_wipe h _ _

end Sys2Proof.Machine
end

