-- ==== Sys2Proof/Laws/PerInstr.lean ====
section
/-! SUPPORT. The per-instruction families named in LAWS.json. -/

namespace Sys2Proof.Laws

/-- EncodingWidth: an instruction's code has the width its row of the opcode table gives (R70, R73). -/
def EncodingWidth.width : Instr → Nat
  | .init _ _ => 58
  | .read _ _ => 58
  | .write _ _ => 58
  | .erase _ _ => 58
  | .ident => 8
  | .fread _ => 40
  | .prog _ => 32
  | .erase4k _ => 32
  | .erase64k _ => 32
  | .rdsr => 8

def EncodingWidth.Statement (i : Instr) : Prop :=
  ∀ c : Config, (encode c i).width = EncodingWidth.width i

theorem EncodingWidth.init (o : Addr) (l : Word) : EncodingWidth.Statement (.init o l) := fun _ => rfl
theorem EncodingWidth.read (o : Addr) (l : Word) : EncodingWidth.Statement (.read o l) := fun _ => rfl
theorem EncodingWidth.write (o : Addr) (l : Word) : EncodingWidth.Statement (.write o l) := fun _ => rfl
theorem EncodingWidth.erase (o : Addr) (l : Word) : EncodingWidth.Statement (.erase o l) := fun _ => rfl
theorem EncodingWidth.ident : EncodingWidth.Statement .ident := fun _ => rfl
theorem EncodingWidth.fread (a : Addr) : EncodingWidth.Statement (.fread a) := fun _ => rfl
theorem EncodingWidth.prog (a : Addr) : EncodingWidth.Statement (.prog a) := fun _ => rfl
theorem EncodingWidth.erase4k (a : Addr) : EncodingWidth.Statement (.erase4k a) := fun _ => rfl
theorem EncodingWidth.erase64k (a : Addr) : EncodingWidth.Statement (.erase64k a) := fun _ => rfl
theorem EncodingWidth.rdsr : EncodingWidth.Statement .rdsr := fun _ => rfl

end Sys2Proof.Laws
end

