-- ==== Sys2Proof/Laws/State.lean ====
section
/-! SUPPORT. One lemma per field of State and named update, true by rfl. -/

namespace Sys2Proof.Machine

variable (s : State)

@[simp] theorem State.issue_cfg (wait : Fsm) (req : Xfer) : (s.issue wait req).cfg = s.cfg := rfl
@[simp] theorem State.issue_g (wait : Fsm) (req : Xfer) : (s.issue wait req).g = s.g := rfl
@[simp] theorem State.issue_op (wait : Fsm) (req : Xfer) : (s.issue wait req).op = s.op := rfl
@[simp] theorem State.issue_cur (wait : Fsm) (req : Xfer) : (s.issue wait req).cur = s.cur := rfl
@[simp] theorem State.issue_rem (wait : Fsm) (req : Xfer) : (s.issue wait req).rem = s.rem := rfl
@[simp] theorem State.issue_idx (wait : Fsm) (req : Xfer) : (s.issue wait req).idx = s.idx := rfl
@[simp] theorem State.issue_chunk (wait : Fsm) (req : Xfer) : (s.issue wait req).chunk = s.chunk := rfl
@[simp] theorem State.issue_ctr (wait : Fsm) (req : Xfer) : (s.issue wait req).ctr = s.ctr := rfl
@[simp] theorem State.issue_pclass (wait : Fsm) (req : Xfer) : (s.issue wait req).pclass = s.pclass := rfl
@[simp] theorem State.issue_fsm (wait : Fsm) (req : Xfer) : (s.issue wait req).fsm = wait := rfl
@[simp] theorem State.issue_f (wait : Fsm) (req : Xfer) : (s.issue wait req).f = s.f.load req.cmd := rfl
@[simp] theorem State.issue_res (wait : Fsm) (req : Xfer) : (s.issue wait req).res = s.res := rfl
@[simp] theorem State.issue_x (wait : Fsm) (req : Xfer) : (s.issue wait req).x = some req := rfl
@[simp] theorem State.issue_trace (wait : Fsm) (req : Xfer) : (s.issue wait req).trace = s.trace ++ [req] := rfl
@[simp] theorem State.issue_results (wait : Fsm) (req : Xfer) : (s.issue wait req).results = s.results := rfl
@[simp] theorem State.issue_cmds (wait : Fsm) (req : Xfer) : (s.issue wait req).cmds = s.cmds := rfl
@[simp] theorem State.issue_inBuf (wait : Fsm) (req : Xfer) : (s.issue wait req).inBuf = s.inBuf := rfl
@[simp] theorem State.issue_outBuf (wait : Fsm) (req : Xfer) : (s.issue wait req).outBuf = s.outBuf := rfl
@[simp] theorem State.issue_replies (wait : Fsm) (req : Xfer) : (s.issue wait req).replies = s.replies := rfl
@[simp] theorem State.issue_pastCapacity (wait : Fsm) (req : Xfer) : (s.issue wait req).pastCapacity = s.pastCapacity := rfl
@[simp] theorem State.issue_chip (wait : Fsm) (req : Xfer) : (s.issue wait req).chip = s.chip := rfl
@[simp] theorem State.issue_free (wait : Fsm) (req : Xfer) : (s.issue wait req).free = s.free := rfl

@[simp] theorem State.raise_cfg (e : Error) : (s.raise e).cfg = s.cfg := rfl
@[simp] theorem State.raise_g (e : Error) : (s.raise e).g = s.g := rfl
@[simp] theorem State.raise_op (e : Error) : (s.raise e).op = s.op := rfl
@[simp] theorem State.raise_cur (e : Error) : (s.raise e).cur = s.cur := rfl
@[simp] theorem State.raise_rem (e : Error) : (s.raise e).rem = s.rem := rfl
@[simp] theorem State.raise_idx (e : Error) : (s.raise e).idx = s.idx := rfl
@[simp] theorem State.raise_chunk (e : Error) : (s.raise e).chunk = s.chunk := rfl
@[simp] theorem State.raise_ctr (e : Error) : (s.raise e).ctr = s.ctr := rfl
@[simp] theorem State.raise_pclass (e : Error) : (s.raise e).pclass = s.pclass := rfl
@[simp] theorem State.raise_fsm (e : Error) : (s.raise e).fsm = .resp := rfl
@[simp] theorem State.raise_f (e : Error) : (s.raise e).f = s.f := rfl
@[simp] theorem State.raise_res (e : Error) : (s.raise e).res = .error e := rfl
@[simp] theorem State.raise_x (e : Error) : (s.raise e).x = s.x := rfl
@[simp] theorem State.raise_trace (e : Error) : (s.raise e).trace = s.trace := rfl
@[simp] theorem State.raise_results (e : Error) : (s.raise e).results = s.results := rfl
@[simp] theorem State.raise_cmds (e : Error) : (s.raise e).cmds = s.cmds := rfl
@[simp] theorem State.raise_inBuf (e : Error) : (s.raise e).inBuf = s.inBuf := rfl
@[simp] theorem State.raise_outBuf (e : Error) : (s.raise e).outBuf = s.outBuf := rfl
@[simp] theorem State.raise_replies (e : Error) : (s.raise e).replies = s.replies := rfl
@[simp] theorem State.raise_pastCapacity (e : Error) : (s.raise e).pastCapacity = s.pastCapacity := rfl
@[simp] theorem State.raise_chip (e : Error) : (s.raise e).chip = s.chip := rfl
@[simp] theorem State.raise_free (e : Error) : (s.raise e).free = s.free := rfl

@[simp] theorem State.respond_cfg (info : Option Geometry) : (s.respond info).cfg = s.cfg := rfl
@[simp] theorem State.respond_g (info : Option Geometry) : (s.respond info).g = s.g := rfl
@[simp] theorem State.respond_op (info : Option Geometry) : (s.respond info).op = s.op := rfl
@[simp] theorem State.respond_cur (info : Option Geometry) : (s.respond info).cur = s.cur := rfl
@[simp] theorem State.respond_rem (info : Option Geometry) : (s.respond info).rem = s.rem := rfl
@[simp] theorem State.respond_idx (info : Option Geometry) : (s.respond info).idx = s.idx := rfl
@[simp] theorem State.respond_chunk (info : Option Geometry) : (s.respond info).chunk = s.chunk := rfl
@[simp] theorem State.respond_ctr (info : Option Geometry) : (s.respond info).ctr = s.ctr := rfl
@[simp] theorem State.respond_pclass (info : Option Geometry) : (s.respond info).pclass = s.pclass := rfl
@[simp] theorem State.respond_fsm (info : Option Geometry) : (s.respond info).fsm = .resp := rfl
@[simp] theorem State.respond_f (info : Option Geometry) : (s.respond info).f = s.f := rfl
@[simp] theorem State.respond_res (info : Option Geometry) : (s.respond info).res = .ok info := rfl
@[simp] theorem State.respond_x (info : Option Geometry) : (s.respond info).x = s.x := rfl
@[simp] theorem State.respond_trace (info : Option Geometry) : (s.respond info).trace = s.trace := rfl
@[simp] theorem State.respond_results (info : Option Geometry) : (s.respond info).results = s.results := rfl
@[simp] theorem State.respond_cmds (info : Option Geometry) : (s.respond info).cmds = s.cmds := rfl
@[simp] theorem State.respond_inBuf (info : Option Geometry) : (s.respond info).inBuf = s.inBuf := rfl
@[simp] theorem State.respond_outBuf (info : Option Geometry) : (s.respond info).outBuf = s.outBuf := rfl
@[simp] theorem State.respond_replies (info : Option Geometry) : (s.respond info).replies = s.replies := rfl
@[simp] theorem State.respond_pastCapacity (info : Option Geometry) : (s.respond info).pastCapacity = s.pastCapacity := rfl
@[simp] theorem State.respond_chip (info : Option Geometry) : (s.respond info).chip = s.chip := rfl
@[simp] theorem State.respond_free (info : Option Geometry) : (s.respond info).free = s.free := rfl

@[simp] theorem State.takeResult_cfg : s.takeResult.cfg = s.cfg := rfl
@[simp] theorem State.takeResult_g : s.takeResult.g = s.g := rfl
@[simp] theorem State.takeResult_op : s.takeResult.op = s.op := rfl
@[simp] theorem State.takeResult_cur : s.takeResult.cur = s.cur := rfl
@[simp] theorem State.takeResult_rem : s.takeResult.rem = s.rem := rfl
@[simp] theorem State.takeResult_idx : s.takeResult.idx = s.idx := rfl
@[simp] theorem State.takeResult_chunk : s.takeResult.chunk = s.chunk := rfl
@[simp] theorem State.takeResult_ctr : s.takeResult.ctr = s.ctr := rfl
@[simp] theorem State.takeResult_pclass : s.takeResult.pclass = s.pclass := rfl
@[simp] theorem State.takeResult_fsm : s.takeResult.fsm = .idle := rfl
@[simp] theorem State.takeResult_f : s.takeResult.f = s.f := rfl
@[simp] theorem State.takeResult_res : s.takeResult.res = s.res := rfl
@[simp] theorem State.takeResult_x : s.takeResult.x = s.x := rfl
@[simp] theorem State.takeResult_trace : s.takeResult.trace = s.trace := rfl
@[simp] theorem State.takeResult_results : s.takeResult.results = s.results ++ [s.res] := rfl
@[simp] theorem State.takeResult_cmds : s.takeResult.cmds = s.cmds := rfl
@[simp] theorem State.takeResult_inBuf : s.takeResult.inBuf = s.inBuf := rfl
@[simp] theorem State.takeResult_outBuf : s.takeResult.outBuf = s.outBuf := rfl
@[simp] theorem State.takeResult_replies : s.takeResult.replies = s.replies := rfl
@[simp] theorem State.takeResult_pastCapacity : s.takeResult.pastCapacity = s.pastCapacity := rfl
@[simp] theorem State.takeResult_chip : s.takeResult.chip = s.chip := rfl
@[simp] theorem State.takeResult_free : s.takeResult.free = s.free := rfl

@[simp] theorem State.present_cfg (c : HostCmd) (rest : List HostCmd) : (s.present c rest).cfg = s.cfg := rfl
@[simp] theorem State.present_g (c : HostCmd) (rest : List HostCmd) : (s.present c rest).g = s.g := rfl
@[simp] theorem State.present_op (c : HostCmd) (rest : List HostCmd) : (s.present c rest).op = s.op := rfl
@[simp] theorem State.present_cur (c : HostCmd) (rest : List HostCmd) : (s.present c rest).cur = s.cur := rfl
@[simp] theorem State.present_rem (c : HostCmd) (rest : List HostCmd) : (s.present c rest).rem = s.rem := rfl
@[simp] theorem State.present_idx (c : HostCmd) (rest : List HostCmd) : (s.present c rest).idx = s.idx := rfl
@[simp] theorem State.present_chunk (c : HostCmd) (rest : List HostCmd) : (s.present c rest).chunk = s.chunk := rfl
@[simp] theorem State.present_ctr (c : HostCmd) (rest : List HostCmd) : (s.present c rest).ctr = s.ctr := rfl
@[simp] theorem State.present_pclass (c : HostCmd) (rest : List HostCmd) : (s.present c rest).pclass = s.pclass := rfl
@[simp] theorem State.present_fsm (c : HostCmd) (rest : List HostCmd) : (s.present c rest).fsm = s.fsm := rfl
@[simp] theorem State.present_f (c : HostCmd) (rest : List HostCmd) : (s.present c rest).f = s.f := rfl
@[simp] theorem State.present_res (c : HostCmd) (rest : List HostCmd) : (s.present c rest).res = s.res := rfl
@[simp] theorem State.present_x (c : HostCmd) (rest : List HostCmd) : (s.present c rest).x = s.x := rfl
@[simp] theorem State.present_trace (c : HostCmd) (rest : List HostCmd) : (s.present c rest).trace = s.trace := rfl
@[simp] theorem State.present_results (c : HostCmd) (rest : List HostCmd) : (s.present c rest).results = s.results := rfl
@[simp] theorem State.present_cmds (c : HostCmd) (rest : List HostCmd) : (s.present c rest).cmds = rest := rfl
@[simp] theorem State.present_inBuf (c : HostCmd) (rest : List HostCmd) : (s.present c rest).inBuf = c.inBuf.getD s.inBuf := rfl
@[simp] theorem State.present_outBuf (c : HostCmd) (rest : List HostCmd) : (s.present c rest).outBuf = c.outBuf.getD s.outBuf := rfl
@[simp] theorem State.present_replies (c : HostCmd) (rest : List HostCmd) : (s.present c rest).replies = s.replies := rfl
@[simp] theorem State.present_pastCapacity (c : HostCmd) (rest : List HostCmd) : (s.present c rest).pastCapacity = s.pastCapacity := rfl
@[simp] theorem State.present_chip (c : HostCmd) (rest : List HostCmd) : (s.present c rest).chip = s.chip := rfl
@[simp] theorem State.present_free (c : HostCmd) (rest : List HostCmd) : (s.present c rest).free = s.free := rfl

@[simp] theorem State.accept_cfg (op : Op) (offset : Addr) (length : Word) (nxt : Fsm) : (s.accept op offset length nxt).cfg = s.cfg := rfl
@[simp] theorem State.accept_g (op : Op) (offset : Addr) (length : Word) (nxt : Fsm) : (s.accept op offset length nxt).g = s.g := rfl
@[simp] theorem State.accept_op (op : Op) (offset : Addr) (length : Word) (nxt : Fsm) : (s.accept op offset length nxt).op = op := rfl
@[simp] theorem State.accept_cur (op : Op) (offset : Addr) (length : Word) (nxt : Fsm) : (s.accept op offset length nxt).cur = offset := rfl
@[simp] theorem State.accept_rem (op : Op) (offset : Addr) (length : Word) (nxt : Fsm) : (s.accept op offset length nxt).rem = length := rfl
@[simp] theorem State.accept_idx (op : Op) (offset : Addr) (length : Word) (nxt : Fsm) : (s.accept op offset length nxt).idx = 0#32 := rfl
@[simp] theorem State.accept_chunk (op : Op) (offset : Addr) (length : Word) (nxt : Fsm) : (s.accept op offset length nxt).chunk = s.chunk := rfl
@[simp] theorem State.accept_ctr (op : Op) (offset : Addr) (length : Word) (nxt : Fsm) : (s.accept op offset length nxt).ctr = s.ctr := rfl
@[simp] theorem State.accept_pclass (op : Op) (offset : Addr) (length : Word) (nxt : Fsm) : (s.accept op offset length nxt).pclass = s.pclass := rfl
@[simp] theorem State.accept_fsm (op : Op) (offset : Addr) (length : Word) (nxt : Fsm) : (s.accept op offset length nxt).fsm = nxt := rfl
@[simp] theorem State.accept_f (op : Op) (offset : Addr) (length : Word) (nxt : Fsm) : (s.accept op offset length nxt).f = s.f := rfl
@[simp] theorem State.accept_res (op : Op) (offset : Addr) (length : Word) (nxt : Fsm) : (s.accept op offset length nxt).res = s.res := rfl
@[simp] theorem State.accept_x (op : Op) (offset : Addr) (length : Word) (nxt : Fsm) : (s.accept op offset length nxt).x = s.x := rfl
@[simp] theorem State.accept_trace (op : Op) (offset : Addr) (length : Word) (nxt : Fsm) : (s.accept op offset length nxt).trace = s.trace := rfl
@[simp] theorem State.accept_results (op : Op) (offset : Addr) (length : Word) (nxt : Fsm) : (s.accept op offset length nxt).results = s.results := rfl
@[simp] theorem State.accept_cmds (op : Op) (offset : Addr) (length : Word) (nxt : Fsm) : (s.accept op offset length nxt).cmds = s.cmds := rfl
@[simp] theorem State.accept_inBuf (op : Op) (offset : Addr) (length : Word) (nxt : Fsm) : (s.accept op offset length nxt).inBuf = s.inBuf := rfl
@[simp] theorem State.accept_outBuf (op : Op) (offset : Addr) (length : Word) (nxt : Fsm) : (s.accept op offset length nxt).outBuf = s.outBuf := rfl
@[simp] theorem State.accept_replies (op : Op) (offset : Addr) (length : Word) (nxt : Fsm) : (s.accept op offset length nxt).replies = s.replies := rfl
@[simp] theorem State.accept_pastCapacity (op : Op) (offset : Addr) (length : Word) (nxt : Fsm) : (s.accept op offset length nxt).pastCapacity = runsPastCapacity s.cfg offset length := rfl
@[simp] theorem State.accept_chip (op : Op) (offset : Addr) (length : Word) (nxt : Fsm) : (s.accept op offset length nxt).chip = s.chip := rfl
@[simp] theorem State.accept_free (op : Op) (offset : Addr) (length : Word) (nxt : Fsm) : (s.accept op offset length nxt).free = s.free := rfl

@[simp] theorem State.acceptInit_cfg : s.acceptInit.cfg = s.cfg := rfl
@[simp] theorem State.acceptInit_g : s.acceptInit.g = s.g := rfl
@[simp] theorem State.acceptInit_op : s.acceptInit.op = .init := rfl
@[simp] theorem State.acceptInit_cur : s.acceptInit.cur = s.cur := rfl
@[simp] theorem State.acceptInit_rem : s.acceptInit.rem = s.rem := rfl
@[simp] theorem State.acceptInit_idx : s.acceptInit.idx = s.idx := rfl
@[simp] theorem State.acceptInit_chunk : s.acceptInit.chunk = s.chunk := rfl
@[simp] theorem State.acceptInit_ctr : s.acceptInit.ctr = s.ctr := rfl
@[simp] theorem State.acceptInit_pclass : s.acceptInit.pclass = s.pclass := rfl
@[simp] theorem State.acceptInit_fsm : s.acceptInit.fsm = s.fsm := rfl
@[simp] theorem State.acceptInit_f : s.acceptInit.f = s.f := rfl
@[simp] theorem State.acceptInit_res : s.acceptInit.res = s.res := rfl
@[simp] theorem State.acceptInit_x : s.acceptInit.x = s.x := rfl
@[simp] theorem State.acceptInit_trace : s.acceptInit.trace = s.trace := rfl
@[simp] theorem State.acceptInit_results : s.acceptInit.results = s.results := rfl
@[simp] theorem State.acceptInit_cmds : s.acceptInit.cmds = s.cmds := rfl
@[simp] theorem State.acceptInit_inBuf : s.acceptInit.inBuf = s.inBuf := rfl
@[simp] theorem State.acceptInit_outBuf : s.acceptInit.outBuf = s.outBuf := rfl
@[simp] theorem State.acceptInit_replies : s.acceptInit.replies = s.replies := rfl
@[simp] theorem State.acceptInit_chip : s.acceptInit.chip = s.chip := rfl
@[simp] theorem State.acceptInit_pastCapacity : s.acceptInit.pastCapacity = false := rfl
@[simp] theorem State.acceptInit_free : s.acceptInit.free = s.free := rfl

@[simp] theorem State.advance_cfg (nxt : Fsm) : (s.advance nxt).cfg = s.cfg := rfl
@[simp] theorem State.advance_g (nxt : Fsm) : (s.advance nxt).g = s.g := rfl
@[simp] theorem State.advance_op (nxt : Fsm) : (s.advance nxt).op = s.op := rfl
@[simp] theorem State.advance_cur (nxt : Fsm) : (s.advance nxt).cur = advanceAddr s.cur s.chunk := rfl
@[simp] theorem State.advance_rem (nxt : Fsm) : (s.advance nxt).rem = s.rem - s.chunk := rfl
@[simp] theorem State.advance_idx (nxt : Fsm) : (s.advance nxt).idx = s.idx + s.chunk := rfl
@[simp] theorem State.advance_chunk (nxt : Fsm) : (s.advance nxt).chunk = s.chunk := rfl
@[simp] theorem State.advance_ctr (nxt : Fsm) : (s.advance nxt).ctr = s.ctr := rfl
@[simp] theorem State.advance_pclass (nxt : Fsm) : (s.advance nxt).pclass = s.pclass := rfl
@[simp] theorem State.advance_fsm (nxt : Fsm) : (s.advance nxt).fsm = nxt := rfl
@[simp] theorem State.advance_f (nxt : Fsm) : (s.advance nxt).f = s.f := rfl
@[simp] theorem State.advance_res (nxt : Fsm) : (s.advance nxt).res = s.res := rfl
@[simp] theorem State.advance_x (nxt : Fsm) : (s.advance nxt).x = s.x := rfl
@[simp] theorem State.advance_trace (nxt : Fsm) : (s.advance nxt).trace = s.trace := rfl
@[simp] theorem State.advance_results (nxt : Fsm) : (s.advance nxt).results = s.results := rfl
@[simp] theorem State.advance_cmds (nxt : Fsm) : (s.advance nxt).cmds = s.cmds := rfl
@[simp] theorem State.advance_inBuf (nxt : Fsm) : (s.advance nxt).inBuf = s.inBuf := rfl
@[simp] theorem State.advance_outBuf (nxt : Fsm) : (s.advance nxt).outBuf = s.outBuf := rfl
@[simp] theorem State.advance_replies (nxt : Fsm) : (s.advance nxt).replies = s.replies := rfl
@[simp] theorem State.advance_pastCapacity (nxt : Fsm) : (s.advance nxt).pastCapacity = s.pastCapacity := rfl
@[simp] theorem State.advance_chip (nxt : Fsm) : (s.advance nxt).chip = s.chip := rfl
@[simp] theorem State.advance_free (nxt : Fsm) : (s.advance nxt).free = s.free := rfl

@[simp] theorem State.advanceErase_cfg (nxt : Fsm) : (s.advanceErase nxt).cfg = s.cfg := rfl
@[simp] theorem State.advanceErase_g (nxt : Fsm) : (s.advanceErase nxt).g = s.g := rfl
@[simp] theorem State.advanceErase_op (nxt : Fsm) : (s.advanceErase nxt).op = s.op := rfl
@[simp] theorem State.advanceErase_cur (nxt : Fsm) : (s.advanceErase nxt).cur = advanceAddr s.cur s.chunk := rfl
@[simp] theorem State.advanceErase_rem (nxt : Fsm) : (s.advanceErase nxt).rem = s.rem - s.chunk := rfl
@[simp] theorem State.advanceErase_idx (nxt : Fsm) : (s.advanceErase nxt).idx = s.idx := rfl
@[simp] theorem State.advanceErase_chunk (nxt : Fsm) : (s.advanceErase nxt).chunk = s.chunk := rfl
@[simp] theorem State.advanceErase_ctr (nxt : Fsm) : (s.advanceErase nxt).ctr = s.ctr := rfl
@[simp] theorem State.advanceErase_pclass (nxt : Fsm) : (s.advanceErase nxt).pclass = s.pclass := rfl
@[simp] theorem State.advanceErase_fsm (nxt : Fsm) : (s.advanceErase nxt).fsm = nxt := rfl
@[simp] theorem State.advanceErase_f (nxt : Fsm) : (s.advanceErase nxt).f = s.f := rfl
@[simp] theorem State.advanceErase_res (nxt : Fsm) : (s.advanceErase nxt).res = s.res := rfl
@[simp] theorem State.advanceErase_x (nxt : Fsm) : (s.advanceErase nxt).x = s.x := rfl
@[simp] theorem State.advanceErase_trace (nxt : Fsm) : (s.advanceErase nxt).trace = s.trace := rfl
@[simp] theorem State.advanceErase_results (nxt : Fsm) : (s.advanceErase nxt).results = s.results := rfl
@[simp] theorem State.advanceErase_cmds (nxt : Fsm) : (s.advanceErase nxt).cmds = s.cmds := rfl
@[simp] theorem State.advanceErase_inBuf (nxt : Fsm) : (s.advanceErase nxt).inBuf = s.inBuf := rfl
@[simp] theorem State.advanceErase_outBuf (nxt : Fsm) : (s.advanceErase nxt).outBuf = s.outBuf := rfl
@[simp] theorem State.advanceErase_replies (nxt : Fsm) : (s.advanceErase nxt).replies = s.replies := rfl
@[simp] theorem State.advanceErase_pastCapacity (nxt : Fsm) : (s.advanceErase nxt).pastCapacity = s.pastCapacity := rfl
@[simp] theorem State.advanceErase_chip (nxt : Fsm) : (s.advanceErase nxt).chip = s.chip := rfl
@[simp] theorem State.advanceErase_free (nxt : Fsm) : (s.advanceErase nxt).free = s.free := rfl

@[simp] theorem State.enterPoll_cfg (c : PollClass) (budget : Word) : (s.enterPoll c budget).cfg = s.cfg := rfl
@[simp] theorem State.enterPoll_g (c : PollClass) (budget : Word) : (s.enterPoll c budget).g = s.g := rfl
@[simp] theorem State.enterPoll_op (c : PollClass) (budget : Word) : (s.enterPoll c budget).op = s.op := rfl
@[simp] theorem State.enterPoll_cur (c : PollClass) (budget : Word) : (s.enterPoll c budget).cur = s.cur := rfl
@[simp] theorem State.enterPoll_rem (c : PollClass) (budget : Word) : (s.enterPoll c budget).rem = s.rem := rfl
@[simp] theorem State.enterPoll_idx (c : PollClass) (budget : Word) : (s.enterPoll c budget).idx = s.idx := rfl
@[simp] theorem State.enterPoll_chunk (c : PollClass) (budget : Word) : (s.enterPoll c budget).chunk = s.chunk := rfl
@[simp] theorem State.enterPoll_ctr (c : PollClass) (budget : Word) : (s.enterPoll c budget).ctr = budget := rfl
@[simp] theorem State.enterPoll_pclass (c : PollClass) (budget : Word) : (s.enterPoll c budget).pclass = c := rfl
@[simp] theorem State.enterPoll_fsm (c : PollClass) (budget : Word) : (s.enterPoll c budget).fsm = .pollIssue := rfl
@[simp] theorem State.enterPoll_f (c : PollClass) (budget : Word) : (s.enterPoll c budget).f = s.f := rfl
@[simp] theorem State.enterPoll_res (c : PollClass) (budget : Word) : (s.enterPoll c budget).res = s.res := rfl
@[simp] theorem State.enterPoll_x (c : PollClass) (budget : Word) : (s.enterPoll c budget).x = s.x := rfl
@[simp] theorem State.enterPoll_trace (c : PollClass) (budget : Word) : (s.enterPoll c budget).trace = s.trace := rfl
@[simp] theorem State.enterPoll_results (c : PollClass) (budget : Word) : (s.enterPoll c budget).results = s.results := rfl
@[simp] theorem State.enterPoll_cmds (c : PollClass) (budget : Word) : (s.enterPoll c budget).cmds = s.cmds := rfl
@[simp] theorem State.enterPoll_inBuf (c : PollClass) (budget : Word) : (s.enterPoll c budget).inBuf = s.inBuf := rfl
@[simp] theorem State.enterPoll_outBuf (c : PollClass) (budget : Word) : (s.enterPoll c budget).outBuf = s.outBuf := rfl
@[simp] theorem State.enterPoll_replies (c : PollClass) (budget : Word) : (s.enterPoll c budget).replies = s.replies := rfl
@[simp] theorem State.enterPoll_pastCapacity (c : PollClass) (budget : Word) : (s.enterPoll c budget).pastCapacity = s.pastCapacity := rfl
@[simp] theorem State.enterPoll_chip (c : PollClass) (budget : Word) : (s.enterPoll c budget).chip = s.chip := rfl
@[simp] theorem State.enterPoll_free (c : PollClass) (budget : Word) : (s.enterPoll c budget).free = s.free := rfl

@[simp] theorem State.landed_cfg (replies : List Reply) : (s.landed replies).cfg = s.cfg := rfl
@[simp] theorem State.landed_g (replies : List Reply) : (s.landed replies).g = s.g := rfl
@[simp] theorem State.landed_op (replies : List Reply) : (s.landed replies).op = s.op := rfl
@[simp] theorem State.landed_cur (replies : List Reply) : (s.landed replies).cur = s.cur := rfl
@[simp] theorem State.landed_rem (replies : List Reply) : (s.landed replies).rem = s.rem := rfl
@[simp] theorem State.landed_idx (replies : List Reply) : (s.landed replies).idx = s.idx := rfl
@[simp] theorem State.landed_chunk (replies : List Reply) : (s.landed replies).chunk = s.chunk := rfl
@[simp] theorem State.landed_ctr (replies : List Reply) : (s.landed replies).ctr = s.ctr := rfl
@[simp] theorem State.landed_pclass (replies : List Reply) : (s.landed replies).pclass = s.pclass := rfl
@[simp] theorem State.landed_fsm (replies : List Reply) : (s.landed replies).fsm = s.fsm := rfl
@[simp] theorem State.landed_f (replies : List Reply) : (s.landed replies).f = s.f := rfl
@[simp] theorem State.landed_res (replies : List Reply) : (s.landed replies).res = s.res := rfl
@[simp] theorem State.landed_x (replies : List Reply) : (s.landed replies).x = none := rfl
@[simp] theorem State.landed_trace (replies : List Reply) : (s.landed replies).trace = s.trace := rfl
@[simp] theorem State.landed_results (replies : List Reply) : (s.landed replies).results = s.results := rfl
@[simp] theorem State.landed_cmds (replies : List Reply) : (s.landed replies).cmds = s.cmds := rfl
@[simp] theorem State.landed_inBuf (replies : List Reply) : (s.landed replies).inBuf = s.inBuf := rfl
@[simp] theorem State.landed_outBuf (replies : List Reply) : (s.landed replies).outBuf = s.outBuf := rfl
@[simp] theorem State.landed_replies (replies : List Reply) : (s.landed replies).replies = replies := rfl
@[simp] theorem State.landed_pastCapacity (replies : List Reply) : (s.landed replies).pastCapacity = s.pastCapacity := rfl
@[simp] theorem State.landed_chip (replies : List Reply) : (s.landed replies).chip = s.chip := rfl
@[simp] theorem State.landed_free (replies : List Reply) : (s.landed replies).free = s.free := rfl

@[simp] theorem State.busyUnknown_cfg : s.busyUnknown.cfg = s.cfg := rfl
@[simp] theorem State.busyUnknown_g : s.busyUnknown.g = s.g := rfl
@[simp] theorem State.busyUnknown_op : s.busyUnknown.op = s.op := rfl
@[simp] theorem State.busyUnknown_cur : s.busyUnknown.cur = s.cur := rfl
@[simp] theorem State.busyUnknown_rem : s.busyUnknown.rem = s.rem := rfl
@[simp] theorem State.busyUnknown_idx : s.busyUnknown.idx = s.idx := rfl
@[simp] theorem State.busyUnknown_chunk : s.busyUnknown.chunk = s.chunk := rfl
@[simp] theorem State.busyUnknown_ctr : s.busyUnknown.ctr = s.ctr := rfl
@[simp] theorem State.busyUnknown_pclass : s.busyUnknown.pclass = s.pclass := rfl
@[simp] theorem State.busyUnknown_fsm : s.busyUnknown.fsm = s.fsm := rfl
@[simp] theorem State.busyUnknown_f : s.busyUnknown.f = s.f := rfl
@[simp] theorem State.busyUnknown_res : s.busyUnknown.res = s.res := rfl
@[simp] theorem State.busyUnknown_x : s.busyUnknown.x = s.x := rfl
@[simp] theorem State.busyUnknown_trace : s.busyUnknown.trace = s.trace := rfl
@[simp] theorem State.busyUnknown_results : s.busyUnknown.results = s.results := rfl
@[simp] theorem State.busyUnknown_cmds : s.busyUnknown.cmds = s.cmds := rfl
@[simp] theorem State.busyUnknown_inBuf : s.busyUnknown.inBuf = s.inBuf := rfl
@[simp] theorem State.busyUnknown_outBuf : s.busyUnknown.outBuf = s.outBuf := rfl
@[simp] theorem State.busyUnknown_replies : s.busyUnknown.replies = s.replies := rfl
@[simp] theorem State.busyUnknown_pastCapacity : s.busyUnknown.pastCapacity = s.pastCapacity := rfl
@[simp] theorem State.busyUnknown_chip : s.busyUnknown.chip = { s.chip with busyn := Config.freeNat s.free, conduct := s.chip.conduct.afterFailure } := rfl
@[simp] theorem State.busyUnknown_free : s.busyUnknown.free = s.free + 1 := rfl

@[simp] theorem State.chunkUnknown_cfg (addr : Addr) (n : Nat) : (s.chunkUnknown addr n).cfg = s.cfg := rfl
@[simp] theorem State.chunkUnknown_g (addr : Addr) (n : Nat) : (s.chunkUnknown addr n).g = s.g := rfl
@[simp] theorem State.chunkUnknown_op (addr : Addr) (n : Nat) : (s.chunkUnknown addr n).op = s.op := rfl
@[simp] theorem State.chunkUnknown_cur (addr : Addr) (n : Nat) : (s.chunkUnknown addr n).cur = s.cur := rfl
@[simp] theorem State.chunkUnknown_rem (addr : Addr) (n : Nat) : (s.chunkUnknown addr n).rem = s.rem := rfl
@[simp] theorem State.chunkUnknown_idx (addr : Addr) (n : Nat) : (s.chunkUnknown addr n).idx = s.idx := rfl
@[simp] theorem State.chunkUnknown_chunk (addr : Addr) (n : Nat) : (s.chunkUnknown addr n).chunk = s.chunk := rfl
@[simp] theorem State.chunkUnknown_ctr (addr : Addr) (n : Nat) : (s.chunkUnknown addr n).ctr = s.ctr := rfl
@[simp] theorem State.chunkUnknown_pclass (addr : Addr) (n : Nat) : (s.chunkUnknown addr n).pclass = s.pclass := rfl
@[simp] theorem State.chunkUnknown_fsm (addr : Addr) (n : Nat) : (s.chunkUnknown addr n).fsm = s.fsm := rfl
@[simp] theorem State.chunkUnknown_f (addr : Addr) (n : Nat) : (s.chunkUnknown addr n).f = s.f := rfl
@[simp] theorem State.chunkUnknown_res (addr : Addr) (n : Nat) : (s.chunkUnknown addr n).res = s.res := rfl
@[simp] theorem State.chunkUnknown_x (addr : Addr) (n : Nat) : (s.chunkUnknown addr n).x = s.x := rfl
@[simp] theorem State.chunkUnknown_trace (addr : Addr) (n : Nat) : (s.chunkUnknown addr n).trace = s.trace := rfl
@[simp] theorem State.chunkUnknown_results (addr : Addr) (n : Nat) : (s.chunkUnknown addr n).results = s.results := rfl
@[simp] theorem State.chunkUnknown_cmds (addr : Addr) (n : Nat) : (s.chunkUnknown addr n).cmds = s.cmds := rfl
@[simp] theorem State.chunkUnknown_inBuf (addr : Addr) (n : Nat) : (s.chunkUnknown addr n).inBuf = s.inBuf := rfl
@[simp] theorem State.chunkUnknown_outBuf (addr : Addr) (n : Nat) : (s.chunkUnknown addr n).outBuf = s.outBuf := rfl
@[simp] theorem State.chunkUnknown_replies (addr : Addr) (n : Nat) : (s.chunkUnknown addr n).replies = s.replies := rfl
@[simp] theorem State.chunkUnknown_pastCapacity (addr : Addr) (n : Nat) : (s.chunkUnknown addr n).pastCapacity = s.pastCapacity := rfl
@[simp] theorem State.chunkUnknown_chip (addr : Addr) (n : Nat) : (s.chunkUnknown addr n).chip = { s.chip with mem := overwriteChunk s.chip.mem addr.toNat 0 (freeBytes s.free n), busyn := Config.freeNat (s.free + n), conduct := s.chip.conduct.afterFailure } := rfl
@[simp] theorem State.chunkUnknown_free (addr : Addr) (n : Nat) : (s.chunkUnknown addr n).free = s.free + n + 1 := rfl

@[simp] theorem State.sectorUnknown_cfg (addr : Addr) (sector : Nat) : (s.sectorUnknown addr sector).cfg = s.cfg := rfl
@[simp] theorem State.sectorUnknown_g (addr : Addr) (sector : Nat) : (s.sectorUnknown addr sector).g = s.g := rfl
@[simp] theorem State.sectorUnknown_op (addr : Addr) (sector : Nat) : (s.sectorUnknown addr sector).op = s.op := rfl
@[simp] theorem State.sectorUnknown_cur (addr : Addr) (sector : Nat) : (s.sectorUnknown addr sector).cur = s.cur := rfl
@[simp] theorem State.sectorUnknown_rem (addr : Addr) (sector : Nat) : (s.sectorUnknown addr sector).rem = s.rem := rfl
@[simp] theorem State.sectorUnknown_idx (addr : Addr) (sector : Nat) : (s.sectorUnknown addr sector).idx = s.idx := rfl
@[simp] theorem State.sectorUnknown_chunk (addr : Addr) (sector : Nat) : (s.sectorUnknown addr sector).chunk = s.chunk := rfl
@[simp] theorem State.sectorUnknown_ctr (addr : Addr) (sector : Nat) : (s.sectorUnknown addr sector).ctr = s.ctr := rfl
@[simp] theorem State.sectorUnknown_pclass (addr : Addr) (sector : Nat) : (s.sectorUnknown addr sector).pclass = s.pclass := rfl
@[simp] theorem State.sectorUnknown_fsm (addr : Addr) (sector : Nat) : (s.sectorUnknown addr sector).fsm = s.fsm := rfl
@[simp] theorem State.sectorUnknown_f (addr : Addr) (sector : Nat) : (s.sectorUnknown addr sector).f = s.f := rfl
@[simp] theorem State.sectorUnknown_res (addr : Addr) (sector : Nat) : (s.sectorUnknown addr sector).res = s.res := rfl
@[simp] theorem State.sectorUnknown_x (addr : Addr) (sector : Nat) : (s.sectorUnknown addr sector).x = s.x := rfl
@[simp] theorem State.sectorUnknown_trace (addr : Addr) (sector : Nat) : (s.sectorUnknown addr sector).trace = s.trace := rfl
@[simp] theorem State.sectorUnknown_results (addr : Addr) (sector : Nat) : (s.sectorUnknown addr sector).results = s.results := rfl
@[simp] theorem State.sectorUnknown_cmds (addr : Addr) (sector : Nat) : (s.sectorUnknown addr sector).cmds = s.cmds := rfl
@[simp] theorem State.sectorUnknown_inBuf (addr : Addr) (sector : Nat) : (s.sectorUnknown addr sector).inBuf = s.inBuf := rfl
@[simp] theorem State.sectorUnknown_outBuf (addr : Addr) (sector : Nat) : (s.sectorUnknown addr sector).outBuf = s.outBuf := rfl
@[simp] theorem State.sectorUnknown_replies (addr : Addr) (sector : Nat) : (s.sectorUnknown addr sector).replies = s.replies := rfl
@[simp] theorem State.sectorUnknown_pastCapacity (addr : Addr) (sector : Nat) : (s.sectorUnknown addr sector).pastCapacity = s.pastCapacity := rfl
@[simp] theorem State.sectorUnknown_chip (addr : Addr) (sector : Nat) : (s.sectorUnknown addr sector).chip = { s.chip with mem := s.chip.mem.writeBytes (addr.toNat - addr.toNat % sector) (freeBytes s.free sector), busyn := Config.freeNat (s.free + sector), conduct := s.chip.conduct.afterFailure } := rfl
@[simp] theorem State.sectorUnknown_free (addr : Addr) (sector : Nat) : (s.sectorUnknown addr sector).free = s.free + sector + 1 := rfl

@[simp] theorem State.settle_cfg : s.settle.cfg = s.cfg := rfl
@[simp] theorem State.settle_g : s.settle.g = s.g := rfl
@[simp] theorem State.settle_op : s.settle.op = s.op := rfl
@[simp] theorem State.settle_cur : s.settle.cur = s.cur := rfl
@[simp] theorem State.settle_rem : s.settle.rem = s.rem := rfl
@[simp] theorem State.settle_idx : s.settle.idx = s.idx := rfl
@[simp] theorem State.settle_chunk : s.settle.chunk = s.chunk := rfl
@[simp] theorem State.settle_ctr : s.settle.ctr = s.ctr := rfl
@[simp] theorem State.settle_pclass : s.settle.pclass = s.pclass := rfl
@[simp] theorem State.settle_fsm : s.settle.fsm = s.fsm := rfl
@[simp] theorem State.settle_f : s.settle.f = s.f := rfl
@[simp] theorem State.settle_res : s.settle.res = s.res := rfl
@[simp] theorem State.settle_x : s.settle.x = s.x := rfl
@[simp] theorem State.settle_trace : s.settle.trace = s.trace := rfl
@[simp] theorem State.settle_results : s.settle.results = s.results := rfl
@[simp] theorem State.settle_cmds : s.settle.cmds = s.cmds := rfl
@[simp] theorem State.settle_inBuf : s.settle.inBuf = s.inBuf := rfl
@[simp] theorem State.settle_outBuf : s.settle.outBuf = s.outBuf := rfl
@[simp] theorem State.settle_replies : s.settle.replies = s.replies := rfl
@[simp] theorem State.settle_pastCapacity : s.settle.pastCapacity = s.pastCapacity := rfl
@[simp] theorem State.settle_chip : s.settle.chip = { s.chip with conduct := s.chip.conduct.afterDone } := rfl
@[simp] theorem State.settle_free : s.settle.free = s.free := rfl

/-- The state with another chip and another count of free values: what the chip's side of a transfer changes. -/
def State.withChip (s : State) (c : RefChip) (n : Nat) : State := { s with chip := c, free := n }

@[simp] theorem State.withChip_cfg (c : RefChip) (n : Nat) : (s.withChip c n).cfg = s.cfg := rfl
@[simp] theorem State.withChip_g (c : RefChip) (n : Nat) : (s.withChip c n).g = s.g := rfl
@[simp] theorem State.withChip_op (c : RefChip) (n : Nat) : (s.withChip c n).op = s.op := rfl
@[simp] theorem State.withChip_cur (c : RefChip) (n : Nat) : (s.withChip c n).cur = s.cur := rfl
@[simp] theorem State.withChip_rem (c : RefChip) (n : Nat) : (s.withChip c n).rem = s.rem := rfl
@[simp] theorem State.withChip_idx (c : RefChip) (n : Nat) : (s.withChip c n).idx = s.idx := rfl
@[simp] theorem State.withChip_chunk (c : RefChip) (n : Nat) : (s.withChip c n).chunk = s.chunk := rfl
@[simp] theorem State.withChip_ctr (c : RefChip) (n : Nat) : (s.withChip c n).ctr = s.ctr := rfl
@[simp] theorem State.withChip_pclass (c : RefChip) (n : Nat) : (s.withChip c n).pclass = s.pclass := rfl
@[simp] theorem State.withChip_fsm (c : RefChip) (n : Nat) : (s.withChip c n).fsm = s.fsm := rfl
@[simp] theorem State.withChip_f (c : RefChip) (n : Nat) : (s.withChip c n).f = s.f := rfl
@[simp] theorem State.withChip_res (c : RefChip) (n : Nat) : (s.withChip c n).res = s.res := rfl
@[simp] theorem State.withChip_x (c : RefChip) (n : Nat) : (s.withChip c n).x = s.x := rfl
@[simp] theorem State.withChip_trace (c : RefChip) (n : Nat) : (s.withChip c n).trace = s.trace := rfl
@[simp] theorem State.withChip_results (c : RefChip) (n : Nat) : (s.withChip c n).results = s.results := rfl
@[simp] theorem State.withChip_cmds (c : RefChip) (n : Nat) : (s.withChip c n).cmds = s.cmds := rfl
@[simp] theorem State.withChip_inBuf (c : RefChip) (n : Nat) : (s.withChip c n).inBuf = s.inBuf := rfl
@[simp] theorem State.withChip_outBuf (c : RefChip) (n : Nat) : (s.withChip c n).outBuf = s.outBuf := rfl
@[simp] theorem State.withChip_replies (c : RefChip) (n : Nat) : (s.withChip c n).replies = s.replies := rfl
@[simp] theorem State.withChip_pastCapacity (c : RefChip) (n : Nat) : (s.withChip c n).pastCapacity = s.pastCapacity := rfl
@[simp] theorem State.withChip_chip (c : RefChip) (n : Nat) : (s.withChip c n).chip = c := rfl
@[simp] theorem State.withChip_free (c : RefChip) (n : Nat) : (s.withChip c n).free = n := rfl

@[simp] theorem Conduct.afterFailure_eq_refchip (c : Conduct) : c.afterFailure = .refchip ↔ c = .refchip := by
  cases c <;> simp [Conduct.afterFailure]
@[simp] theorem Conduct.afterDone_eq_refchip (c : Conduct) : c.afterDone = .refchip ↔ c = .refchip := by
  cases c <;> simp [Conduct.afterDone]
theorem State.settle_chipFixed (h : s.chipFixed) : s.settle.chipFixed := by
  rcases h with h | ⟨h, hp⟩
  · exact .inl (by simp [h])
  · exact .inr ⟨by simp [h, Conduct.afterDone], hp⟩

@[simp] theorem State.flashUnknown_cfg : (s.flashUnknown).cfg = s.cfg := rfl
@[simp] theorem State.flashUnknown_g : (s.flashUnknown).g = s.g := rfl
@[simp] theorem State.flashUnknown_op : (s.flashUnknown).op = s.op := rfl
@[simp] theorem State.flashUnknown_cur : (s.flashUnknown).cur = s.cur := rfl
@[simp] theorem State.flashUnknown_rem : (s.flashUnknown).rem = s.rem := rfl
@[simp] theorem State.flashUnknown_idx : (s.flashUnknown).idx = s.idx := rfl
@[simp] theorem State.flashUnknown_chunk : (s.flashUnknown).chunk = s.chunk := rfl
@[simp] theorem State.flashUnknown_ctr : (s.flashUnknown).ctr = s.ctr := rfl
@[simp] theorem State.flashUnknown_pclass : (s.flashUnknown).pclass = s.pclass := rfl
@[simp] theorem State.flashUnknown_fsm : (s.flashUnknown).fsm = s.fsm := rfl
@[simp] theorem State.flashUnknown_f : (s.flashUnknown).f = s.f := rfl
@[simp] theorem State.flashUnknown_res : (s.flashUnknown).res = s.res := rfl
@[simp] theorem State.flashUnknown_x : (s.flashUnknown).x = s.x := rfl
@[simp] theorem State.flashUnknown_trace : (s.flashUnknown).trace = s.trace := rfl
@[simp] theorem State.flashUnknown_results : (s.flashUnknown).results = s.results := rfl
@[simp] theorem State.flashUnknown_cmds : (s.flashUnknown).cmds = s.cmds := rfl
@[simp] theorem State.flashUnknown_inBuf : (s.flashUnknown).inBuf = s.inBuf := rfl
@[simp] theorem State.flashUnknown_outBuf : (s.flashUnknown).outBuf = s.outBuf := rfl
@[simp] theorem State.flashUnknown_replies : (s.flashUnknown).replies = s.replies := rfl
@[simp] theorem State.flashUnknown_pastCapacity : (s.flashUnknown).pastCapacity = s.pastCapacity := rfl

theorem State.progUnknown_eq (addr : Addr) (n : Nat) : s.progUnknown addr n = s.withChip (s.progUnknown addr n).chip (s.progUnknown addr n).free := by
  unfold State.progUnknown
  split <;> rfl

@[simp] theorem State.progUnknown_cfg (addr : Addr) (n : Nat) : (s.progUnknown addr n).cfg = s.cfg := by rw [s.progUnknown_eq]; rfl
@[simp] theorem State.progUnknown_g (addr : Addr) (n : Nat) : (s.progUnknown addr n).g = s.g := by rw [s.progUnknown_eq]; rfl
@[simp] theorem State.progUnknown_op (addr : Addr) (n : Nat) : (s.progUnknown addr n).op = s.op := by rw [s.progUnknown_eq]; rfl
@[simp] theorem State.progUnknown_cur (addr : Addr) (n : Nat) : (s.progUnknown addr n).cur = s.cur := by rw [s.progUnknown_eq]; rfl
@[simp] theorem State.progUnknown_rem (addr : Addr) (n : Nat) : (s.progUnknown addr n).rem = s.rem := by rw [s.progUnknown_eq]; rfl
@[simp] theorem State.progUnknown_idx (addr : Addr) (n : Nat) : (s.progUnknown addr n).idx = s.idx := by rw [s.progUnknown_eq]; rfl
@[simp] theorem State.progUnknown_chunk (addr : Addr) (n : Nat) : (s.progUnknown addr n).chunk = s.chunk := by rw [s.progUnknown_eq]; rfl
@[simp] theorem State.progUnknown_ctr (addr : Addr) (n : Nat) : (s.progUnknown addr n).ctr = s.ctr := by rw [s.progUnknown_eq]; rfl
@[simp] theorem State.progUnknown_pclass (addr : Addr) (n : Nat) : (s.progUnknown addr n).pclass = s.pclass := by rw [s.progUnknown_eq]; rfl
@[simp] theorem State.progUnknown_fsm (addr : Addr) (n : Nat) : (s.progUnknown addr n).fsm = s.fsm := by rw [s.progUnknown_eq]; rfl
@[simp] theorem State.progUnknown_f (addr : Addr) (n : Nat) : (s.progUnknown addr n).f = s.f := by rw [s.progUnknown_eq]; rfl
@[simp] theorem State.progUnknown_res (addr : Addr) (n : Nat) : (s.progUnknown addr n).res = s.res := by rw [s.progUnknown_eq]; rfl
@[simp] theorem State.progUnknown_x (addr : Addr) (n : Nat) : (s.progUnknown addr n).x = s.x := by rw [s.progUnknown_eq]; rfl
@[simp] theorem State.progUnknown_trace (addr : Addr) (n : Nat) : (s.progUnknown addr n).trace = s.trace := by rw [s.progUnknown_eq]; rfl
@[simp] theorem State.progUnknown_results (addr : Addr) (n : Nat) : (s.progUnknown addr n).results = s.results := by rw [s.progUnknown_eq]; rfl
@[simp] theorem State.progUnknown_cmds (addr : Addr) (n : Nat) : (s.progUnknown addr n).cmds = s.cmds := by rw [s.progUnknown_eq]; rfl
@[simp] theorem State.progUnknown_inBuf (addr : Addr) (n : Nat) : (s.progUnknown addr n).inBuf = s.inBuf := by rw [s.progUnknown_eq]; rfl
@[simp] theorem State.progUnknown_outBuf (addr : Addr) (n : Nat) : (s.progUnknown addr n).outBuf = s.outBuf := by rw [s.progUnknown_eq]; rfl
@[simp] theorem State.progUnknown_replies (addr : Addr) (n : Nat) : (s.progUnknown addr n).replies = s.replies := by rw [s.progUnknown_eq]; rfl
@[simp] theorem State.progUnknown_pastCapacity (addr : Addr) (n : Nat) : (s.progUnknown addr n).pastCapacity = s.pastCapacity := by rw [s.progUnknown_eq]; rfl

theorem State.eraseUnknown_eq (addr : Addr) (sector : Nat) : s.eraseUnknown addr sector = s.withChip (s.eraseUnknown addr sector).chip (s.eraseUnknown addr sector).free := by
  unfold State.eraseUnknown
  split <;> rfl

@[simp] theorem State.eraseUnknown_cfg (addr : Addr) (sector : Nat) : (s.eraseUnknown addr sector).cfg = s.cfg := by rw [s.eraseUnknown_eq]; rfl
@[simp] theorem State.eraseUnknown_g (addr : Addr) (sector : Nat) : (s.eraseUnknown addr sector).g = s.g := by rw [s.eraseUnknown_eq]; rfl
@[simp] theorem State.eraseUnknown_op (addr : Addr) (sector : Nat) : (s.eraseUnknown addr sector).op = s.op := by rw [s.eraseUnknown_eq]; rfl
@[simp] theorem State.eraseUnknown_cur (addr : Addr) (sector : Nat) : (s.eraseUnknown addr sector).cur = s.cur := by rw [s.eraseUnknown_eq]; rfl
@[simp] theorem State.eraseUnknown_rem (addr : Addr) (sector : Nat) : (s.eraseUnknown addr sector).rem = s.rem := by rw [s.eraseUnknown_eq]; rfl
@[simp] theorem State.eraseUnknown_idx (addr : Addr) (sector : Nat) : (s.eraseUnknown addr sector).idx = s.idx := by rw [s.eraseUnknown_eq]; rfl
@[simp] theorem State.eraseUnknown_chunk (addr : Addr) (sector : Nat) : (s.eraseUnknown addr sector).chunk = s.chunk := by rw [s.eraseUnknown_eq]; rfl
@[simp] theorem State.eraseUnknown_ctr (addr : Addr) (sector : Nat) : (s.eraseUnknown addr sector).ctr = s.ctr := by rw [s.eraseUnknown_eq]; rfl
@[simp] theorem State.eraseUnknown_pclass (addr : Addr) (sector : Nat) : (s.eraseUnknown addr sector).pclass = s.pclass := by rw [s.eraseUnknown_eq]; rfl
@[simp] theorem State.eraseUnknown_fsm (addr : Addr) (sector : Nat) : (s.eraseUnknown addr sector).fsm = s.fsm := by rw [s.eraseUnknown_eq]; rfl
@[simp] theorem State.eraseUnknown_f (addr : Addr) (sector : Nat) : (s.eraseUnknown addr sector).f = s.f := by rw [s.eraseUnknown_eq]; rfl
@[simp] theorem State.eraseUnknown_res (addr : Addr) (sector : Nat) : (s.eraseUnknown addr sector).res = s.res := by rw [s.eraseUnknown_eq]; rfl
@[simp] theorem State.eraseUnknown_x (addr : Addr) (sector : Nat) : (s.eraseUnknown addr sector).x = s.x := by rw [s.eraseUnknown_eq]; rfl
@[simp] theorem State.eraseUnknown_trace (addr : Addr) (sector : Nat) : (s.eraseUnknown addr sector).trace = s.trace := by rw [s.eraseUnknown_eq]; rfl
@[simp] theorem State.eraseUnknown_results (addr : Addr) (sector : Nat) : (s.eraseUnknown addr sector).results = s.results := by rw [s.eraseUnknown_eq]; rfl
@[simp] theorem State.eraseUnknown_cmds (addr : Addr) (sector : Nat) : (s.eraseUnknown addr sector).cmds = s.cmds := by rw [s.eraseUnknown_eq]; rfl
@[simp] theorem State.eraseUnknown_inBuf (addr : Addr) (sector : Nat) : (s.eraseUnknown addr sector).inBuf = s.inBuf := by rw [s.eraseUnknown_eq]; rfl
@[simp] theorem State.eraseUnknown_outBuf (addr : Addr) (sector : Nat) : (s.eraseUnknown addr sector).outBuf = s.outBuf := by rw [s.eraseUnknown_eq]; rfl
@[simp] theorem State.eraseUnknown_replies (addr : Addr) (sector : Nat) : (s.eraseUnknown addr sector).replies = s.replies := by rw [s.eraseUnknown_eq]; rfl
@[simp] theorem State.eraseUnknown_pastCapacity (addr : Addr) (sector : Nat) : (s.eraseUnknown addr sector).pastCapacity = s.pastCapacity := by rw [s.eraseUnknown_eq]; rfl

@[simp] theorem State.progUnknown_chip_ks (addr : Addr) (n : Nat) : (s.progUnknown addr n).chip.ks = s.chip.ks := by
  unfold State.progUnknown; split <;> rfl
@[simp] theorem State.progUnknown_chip_idResp (addr : Addr) (n : Nat) : (s.progUnknown addr n).chip.idResp = s.chip.idResp := by
  unfold State.progUnknown; split <;> rfl
@[simp] theorem State.progUnknown_chip_conduct (addr : Addr) (n : Nat) : (s.progUnknown addr n).chip.conduct = s.chip.conduct.afterFailure := by
  unfold State.progUnknown; split <;> rfl

@[simp] theorem State.eraseUnknown_chip_ks (addr : Addr) (sector : Nat) : (s.eraseUnknown addr sector).chip.ks = s.chip.ks := by
  unfold State.eraseUnknown; split <;> rfl
@[simp] theorem State.eraseUnknown_chip_idResp (addr : Addr) (sector : Nat) : (s.eraseUnknown addr sector).chip.idResp = s.chip.idResp := by
  unfold State.eraseUnknown; split <;> rfl
@[simp] theorem State.eraseUnknown_chip_conduct (addr : Addr) (sector : Nat) : (s.eraseUnknown addr sector).chip.conduct = s.chip.conduct.afterFailure := by
  unfold State.eraseUnknown; split <;> rfl

theorem State.inFlightUnknown_eq : s.inFlightUnknown = s.withChip s.inFlightUnknown.chip s.inFlightUnknown.free := by
  unfold State.inFlightUnknown
  split
  · rfl
  · split
    · exact s.progUnknown_eq _ _
    · exact s.eraseUnknown_eq _ _

@[simp] theorem State.inFlightUnknown_cfg : s.inFlightUnknown.cfg = s.cfg := by rw [s.inFlightUnknown_eq]; rfl
@[simp] theorem State.inFlightUnknown_g : s.inFlightUnknown.g = s.g := by rw [s.inFlightUnknown_eq]; rfl
@[simp] theorem State.inFlightUnknown_op : s.inFlightUnknown.op = s.op := by rw [s.inFlightUnknown_eq]; rfl
@[simp] theorem State.inFlightUnknown_cur : s.inFlightUnknown.cur = s.cur := by rw [s.inFlightUnknown_eq]; rfl
@[simp] theorem State.inFlightUnknown_rem : s.inFlightUnknown.rem = s.rem := by rw [s.inFlightUnknown_eq]; rfl
@[simp] theorem State.inFlightUnknown_idx : s.inFlightUnknown.idx = s.idx := by rw [s.inFlightUnknown_eq]; rfl
@[simp] theorem State.inFlightUnknown_chunk : s.inFlightUnknown.chunk = s.chunk := by rw [s.inFlightUnknown_eq]; rfl
@[simp] theorem State.inFlightUnknown_ctr : s.inFlightUnknown.ctr = s.ctr := by rw [s.inFlightUnknown_eq]; rfl
@[simp] theorem State.inFlightUnknown_pclass : s.inFlightUnknown.pclass = s.pclass := by rw [s.inFlightUnknown_eq]; rfl
@[simp] theorem State.inFlightUnknown_fsm : s.inFlightUnknown.fsm = s.fsm := by rw [s.inFlightUnknown_eq]; rfl
@[simp] theorem State.inFlightUnknown_f : s.inFlightUnknown.f = s.f := by rw [s.inFlightUnknown_eq]; rfl
@[simp] theorem State.inFlightUnknown_res : s.inFlightUnknown.res = s.res := by rw [s.inFlightUnknown_eq]; rfl
@[simp] theorem State.inFlightUnknown_x : s.inFlightUnknown.x = s.x := by rw [s.inFlightUnknown_eq]; rfl
@[simp] theorem State.inFlightUnknown_trace : s.inFlightUnknown.trace = s.trace := by rw [s.inFlightUnknown_eq]; rfl
@[simp] theorem State.inFlightUnknown_results : s.inFlightUnknown.results = s.results := by rw [s.inFlightUnknown_eq]; rfl
@[simp] theorem State.inFlightUnknown_cmds : s.inFlightUnknown.cmds = s.cmds := by rw [s.inFlightUnknown_eq]; rfl
@[simp] theorem State.inFlightUnknown_inBuf : s.inFlightUnknown.inBuf = s.inBuf := by rw [s.inFlightUnknown_eq]; rfl
@[simp] theorem State.inFlightUnknown_outBuf : s.inFlightUnknown.outBuf = s.outBuf := by rw [s.inFlightUnknown_eq]; rfl
@[simp] theorem State.inFlightUnknown_replies : s.inFlightUnknown.replies = s.replies := by rw [s.inFlightUnknown_eq]; rfl
@[simp] theorem State.inFlightUnknown_pastCapacity : s.inFlightUnknown.pastCapacity = s.pastCapacity := by rw [s.inFlightUnknown_eq]; rfl

@[simp] theorem State.inFlightUnknown_chip_ks : s.inFlightUnknown.chip.ks = s.chip.ks := by
  unfold State.inFlightUnknown; split <;> [rfl; (split <;> simp)]
@[simp] theorem State.inFlightUnknown_chip_idResp : s.inFlightUnknown.chip.idResp = s.chip.idResp := by
  unfold State.inFlightUnknown; split <;> [rfl; (split <;> simp)]

@[simp] theorem State.pollDone_cfg : s.pollDone.cfg = s.cfg := by unfold State.pollDone; split <;> rfl
@[simp] theorem State.pollDone_g : s.pollDone.g = s.g := by unfold State.pollDone; split <;> rfl
@[simp] theorem State.pollDone_op : s.pollDone.op = s.op := by unfold State.pollDone; split <;> rfl
@[simp] theorem State.pollDone_chunk : s.pollDone.chunk = s.chunk := by unfold State.pollDone; split <;> rfl
@[simp] theorem State.pollDone_ctr : s.pollDone.ctr = s.ctr := by unfold State.pollDone; split <;> rfl
@[simp] theorem State.pollDone_pclass : s.pollDone.pclass = s.pclass := by unfold State.pollDone; split <;> rfl
@[simp] theorem State.pollDone_f : s.pollDone.f = s.f := by unfold State.pollDone; split <;> rfl
@[simp] theorem State.pollDone_res : s.pollDone.res = s.res := by unfold State.pollDone; split <;> rfl
@[simp] theorem State.pollDone_x : s.pollDone.x = s.x := by unfold State.pollDone; split <;> rfl
@[simp] theorem State.pollDone_trace : s.pollDone.trace = s.trace := by unfold State.pollDone; split <;> rfl
@[simp] theorem State.pollDone_results : s.pollDone.results = s.results := by unfold State.pollDone; split <;> rfl
@[simp] theorem State.pollDone_cmds : s.pollDone.cmds = s.cmds := by unfold State.pollDone; split <;> rfl
@[simp] theorem State.pollDone_inBuf : s.pollDone.inBuf = s.inBuf := by unfold State.pollDone; split <;> rfl
@[simp] theorem State.pollDone_outBuf : s.pollDone.outBuf = s.outBuf := by unfold State.pollDone; split <;> rfl
@[simp] theorem State.pollDone_replies : s.pollDone.replies = s.replies := by unfold State.pollDone; split <;> rfl
@[simp] theorem State.pollDone_pastCapacity : s.pollDone.pastCapacity = s.pastCapacity := by unfold State.pollDone; split <;> rfl
@[simp] theorem State.pollDone_chip : s.pollDone.chip = { s.chip with conduct := s.chip.conduct.afterDone } := by
  unfold State.pollDone; split <;> rfl
@[simp] theorem State.pollDone_free : s.pollDone.free = s.free := by unfold State.pollDone; split <;> rfl

@[simp] theorem State.pollAgain_cfg : s.pollAgain.cfg = s.cfg := by unfold State.pollAgain; split <;> simp
@[simp] theorem State.pollAgain_g : s.pollAgain.g = s.g := by unfold State.pollAgain; split <;> simp
@[simp] theorem State.pollAgain_op : s.pollAgain.op = s.op := by unfold State.pollAgain; split <;> simp
@[simp] theorem State.pollAgain_cur : s.pollAgain.cur = s.cur := by unfold State.pollAgain; split <;> simp
@[simp] theorem State.pollAgain_rem : s.pollAgain.rem = s.rem := by unfold State.pollAgain; split <;> simp
@[simp] theorem State.pollAgain_idx : s.pollAgain.idx = s.idx := by unfold State.pollAgain; split <;> simp
@[simp] theorem State.pollAgain_chunk : s.pollAgain.chunk = s.chunk := by unfold State.pollAgain; split <;> simp
@[simp] theorem State.pollAgain_pclass : s.pollAgain.pclass = s.pclass := by unfold State.pollAgain; split <;> simp
@[simp] theorem State.pollAgain_f : s.pollAgain.f = s.f := by unfold State.pollAgain; split <;> simp
@[simp] theorem State.pollAgain_x : s.pollAgain.x = s.x := by unfold State.pollAgain; split <;> simp
@[simp] theorem State.pollAgain_trace : s.pollAgain.trace = s.trace := by unfold State.pollAgain; split <;> simp
@[simp] theorem State.pollAgain_results : s.pollAgain.results = s.results := by unfold State.pollAgain; split <;> simp
@[simp] theorem State.pollAgain_cmds : s.pollAgain.cmds = s.cmds := by unfold State.pollAgain; split <;> simp
@[simp] theorem State.pollAgain_inBuf : s.pollAgain.inBuf = s.inBuf := by unfold State.pollAgain; split <;> simp
@[simp] theorem State.pollAgain_outBuf : s.pollAgain.outBuf = s.outBuf := by unfold State.pollAgain; split <;> simp
@[simp] theorem State.pollAgain_replies : s.pollAgain.replies = s.replies := by unfold State.pollAgain; split <;> simp
@[simp] theorem State.pollAgain_pastCapacity : s.pollAgain.pastCapacity = s.pastCapacity := by unfold State.pollAgain; split <;> simp

end Sys2Proof.Machine
end

