-- ==== Sys2Proof/Laws/Steps.lean ====
section
/-! SUPPORT. What a step can do, said once: the inversion lemmas of the shared operations, and the step in
each state of the sequencer. -/

namespace Sys2Proof.Machine

variable {s t : State}

/-- The transport answers `a` to the request `q` in flight, which leaves FCF about to take its transition in
the state `u`. -/
inductive Lands (s : State) (q : Xfer) (does : RefChip → Answer × RefChip) (unknown : State → State) :
    Answer → State → Prop where
  /-- with what the chip answers -/
  | chip (rest : List Reply) (hr : s.asksChip rest)
      (hf : (s.chipAnswer q does).1.fits s.cfg q = true) :
      Lands s q does unknown (s.chipAnswer q does).1 (((s.chipAnswer q does).2.landed rest).perform does unknown)
  /-- with a written answer -/
  | ok (d : List Byte) (rest : List Reply) (hr : s.replies = .answer (.ok d) :: rest)
      (hd : d.length = q.answerLength) : Lands s q does unknown (.ok d) ((s.landed rest).perform does unknown)
  /-- with a written error -/
  | err (e : Terr) (rest : List Reply) (hr : s.replies = .answer (.err e) :: rest)
      (he : s.cfg.hasTerr e = true) : Lands s q does unknown (.err e) (unknown (s.landed rest))

section
variable {q : Xfer} {does : RefChip → Answer × RefChip} {unknown : State → State} {taken : Answer → State → Out}
  {a : Answer} {u : State}

theorem completeByChip_cases {rest : List Reply} (h : completeByChip q does unknown taken rest s = .next t) :
    (s.chipAnswer q does).1.fits s.cfg q = true ∧
      taken (s.chipAnswer q does).1 (((s.chipAnswer q does).2.landed rest).perform does unknown) = .next t := by
  unfold completeByChip at h
  split at h
  · next hf => exact ⟨hf, h⟩
  · simp at h

/-- Everything `complete` can do when it answers a next state. -/
theorem complete_next (h : complete q does unknown taken s = .next t) :
    (∃ rest, s.replies = .silent :: rest ∧ t = s) ∨
      ∃ a u, Lands s q does unknown a u ∧ taken a u = .next t := by
  unfold complete at h
  split at h
  · next hr =>
    obtain ⟨hf, h⟩ := completeByChip_cases h
    exact .inr ⟨_, _, .chip [] (.inr ⟨hr, rfl⟩) hf, h⟩
  · next rest hr =>
    obtain ⟨hf, h⟩ := completeByChip_cases h
    exact .inr ⟨_, _, .chip rest (.inl hr) hf, h⟩
  · next rest hr => exact .inl ⟨rest, hr, by simpa using h.symm⟩
  · next d rest hr =>
    split at h
    · next hf => exact .inr ⟨_, _, .ok d rest hr (by simpa [Answer.fits] using hf), h⟩
    · simp at h
  · next e rest hr =>
    split at h
    · next hf => exact .inr ⟨_, _, .err e rest hr hf, h⟩
    · simp at h

theorem complete_of_lands (h : Lands s q does unknown a u) : complete q does unknown taken s = taken a u := by
  cases h with
  | chip rest hr hf => rcases hr with hr | ⟨hr, rfl⟩ <;> simp [complete, completeByChip, hr, hf]
  | ok d rest hr hd => simp [complete, hr, Answer.fits, hd]
  | err e rest hr he => simp [complete, hr, Answer.fits, he]

theorem complete_silent {rest : List Reply} (h : s.replies = .silent :: rest) :
    complete q does unknown taken s = .next s := by
  simp [complete, h]

/-- The chip's side of a transfer changes the chip and the count of free values only. -/
theorem State.perform_eq (s : State) (hu : ∀ v, ∃ c n, unknown v = v.withChip c n) :
    ∃ c n, s.perform does unknown = s.withChip c n := by
  unfold State.perform
  split
  · exact ⟨_, _, rfl⟩
  · exact hu s

/-- What FCF sees of a transfer's end: the slot empty, the reply used up, nothing else but the chip changed. -/
theorem Lands.eq_withChip (h : Lands s q does unknown a u) (hu : ∀ v, ∃ c n, unknown v = v.withChip c n) :
    ∃ rest c n, u = (s.landed rest).withChip c n ∧
      (s.replies = .answer a :: rest ∨ s.asksChip rest) := by
  cases h with
  | chip rest hr hf =>
    obtain ⟨c, n, h⟩ := ((s.chipAnswer q does).2.landed rest).perform_eq (does := does) hu
    refine ⟨rest, c, n, ?_, .inr hr⟩
    rw [h]
    unfold State.chipAnswer
    split <;> rfl
  | ok d rest hr hd =>
    obtain ⟨c, n, h⟩ := (s.landed rest).perform_eq (does := does) hu
    exact ⟨rest, c, n, h, .inl hr⟩
  | err e rest hr he =>
    obtain ⟨c, n, h⟩ := hu (s.landed rest)
    exact ⟨rest, c, n, h, .inl hr⟩

/-- An `Ok` answer has the length its request fixes (R55). -/
theorem Lands.length {d : List Byte} (h : Lands s q does unknown a u) (ha : a = .ok d) :
    d.length = q.answerLength := by
  cases h with
  | chip rest hr hf => rw [ha] at hf; simpa [Answer.fits] using hf
  | ok d' rest hr hd => cases ha; exact hd
  | err e rest hr he => cases ha

/-- An `Err` answer has a value of `TERR` (R55). -/
theorem Lands.inTerr {e : Terr} (h : Lands s q does unknown a u) (ha : a = .err e) : s.cfg.hasTerr e = true := by
  cases h with
  | chip rest hr hf => rwa [ha] at hf
  | ok d rest hr hd => cases ha
  | err e' rest hr he => cases ha; exact he

theorem State.perform_chip {P : RefChip → Prop} (hd : P (does s.chip).2) (hu : P (unknown s).chip) :
    P (s.perform does unknown).chip := by
  unfold State.perform
  split
  · exact hd
  · exact hu

theorem State.chipAnswer_fixed (h : s.chipFixed) : s.chipAnswer q does = ((does s.chip).1, s) := if_pos h

theorem State.chipAnswer_open (h : ¬ s.chipFixed) :
    s.chipAnswer q does =
      (.ok (freeBytes s.free q.answerLength), { s with free := s.free + q.answerLength }) := if_neg h

theorem State.perform_fixed (h : s.chipFixed) :
    s.perform does unknown = { s with chip := (does s.chip).2 } := if_pos h

theorem State.perform_open (h : ¬ s.chipFixed) : s.perform does unknown = unknown s := if_neg h

theorem State.chipAnswer_chip : (s.chipAnswer q does).2.chip = s.chip := by
  unfold State.chipAnswer
  split <;> rfl

/-- What holds of the chip after a transfer, if it holds before, and both REFCHIP's part and the unknown effect
keep it. -/
theorem Lands.chip_keeps {P : RefChip → Prop} (h : Lands s q does unknown a u) (h0 : P s.chip)
    (hd : ∀ c, P c → P (does c).2)
    (hu : ∀ v : State, v.chip = s.chip → v.pastCapacity = s.pastCapacity → P v.chip → P (unknown v).chip) :
    P u.chip := by
  cases h with
  | chip rest hr hf =>
    have hc : ((s.chipAnswer q does).2.landed rest).chip = s.chip := by
      rw [State.landed_chip, State.chipAnswer_chip]
    refine State.perform_chip (by rw [hc]; exact hd _ h0) (hu _ hc ?_ (by rw [hc]; exact h0))
    unfold State.chipAnswer
    split <;> rfl
  | ok d rest hr hd' => exact State.perform_chip (hd _ h0) (hu _ rfl rfl h0)
  | err e rest hr he => exact hu _ rfl rfl h0

/-- While what the chip does is fixed it answers and acts as REFCHIP. -/
theorem lands_refchip {rest : List Reply} (hc : s.chipFixed)
    (hr : s.asksChip rest) (hf : (does s.chip).1.fits s.cfg q = true) :
    Lands s q does unknown (does s.chip).1 { s.landed rest with chip := (does s.chip).2 } := by
  have h1 : s.chipAnswer q does = ((does s.chip).1, s) := State.chipAnswer_fixed hc
  have h2 : (s.landed rest).perform does unknown = { s.landed rest with chip := (does s.chip).2 } :=
    State.perform_fixed hc
  have := Lands.chip (unknown := unknown) rest hr (by rw [h1]; exact hf)
  rw [h1, h2] at this
  exact this

/-- While what the chip does is fixed its answer is REFCHIP's. -/
theorem Lands.refchip_answer {rest : List Reply} (h : Lands s q does unknown a u) (hr : s.asksChip rest)
    (hc : s.chipFixed) : a = (does s.chip).1 := by
  cases h with
  | chip rest' hr' hf => rw [State.chipAnswer_fixed hc]
  | ok d rest' hr' hd => rcases hr with hr | ⟨hr, -⟩ <;> simp [hr] at hr'
  | err e rest' hr' he => rcases hr with hr | ⟨hr, -⟩ <;> simp [hr] at hr'

theorem lands_ok {d : List Byte} {rest : List Reply} (hc : s.chipFixed)
    (hr : s.replies = .answer (.ok d) :: rest) (hd : d.length = q.answerLength) :
    Lands s q does unknown (.ok d) { s.landed rest with chip := (does s.chip).2 } := by
  have h2 : (s.landed rest).perform does unknown = { s.landed rest with chip := (does s.chip).2 } :=
    State.perform_fixed hc
  have := Lands.ok (does := does) (unknown := unknown) d rest hr hd
  rwa [h2] at this

/-- A frame whose transfer has no part of the chip's (IDENT and FREAD, R47). -/
theorem lands_ok_of_reading {d : List Byte} {rest : List Reply} (hdo : ∀ c, (does c).2 = c)
    (hr : s.replies = .answer (.ok d) :: rest) (hd : d.length = q.answerLength) :
    Lands s q does id (.ok d) (s.landed rest) := by
  have h2 : (s.landed rest).perform does id = s.landed rest := by
    unfold State.perform
    split
    · rw [hdo]
    · rfl
  have := Lands.ok (does := does) (unknown := id) d rest hr hd
  rwa [h2] at this

end

theorem busyUnknown_eq (s : State) : ∃ c n, s.busyUnknown = s.withChip c n := ⟨_, _, rfl⟩
theorem progUnknown_eq (addr : Addr) (n : Nat) (s : State) : ∃ c k, s.progUnknown addr n = s.withChip c k :=
  ⟨_, _, s.progUnknown_eq addr n⟩
theorem eraseUnknown_eq (addr : Addr) (n : Nat) (s : State) : ∃ c k, s.eraseUnknown addr n = s.withChip c k :=
  ⟨_, _, s.eraseUnknown_eq addr n⟩
theorem id_eq_withChip (s : State) : ∃ c k, id s = s.withChip c k := ⟨s.chip, s.free, rfl⟩

/-- Everything `frameStep` can do when it answers a next state. -/
theorem frameStep_cases {start wait : Fsm} {cmd : List Byte} {i : State → Out} {c : Xfer → State → Out}
    (h : frameStep start wait cmd i c s = .next t) :
    (s.x = none ∧ s.fsm = start ∧ i s = .next t) ∨
    (∃ q, s.x = some q ∧ s.fsm = wait ∧ q.cmd = cmd ∧ c q s = .next t) := by
  unfold frameStep at h
  split at h
  · next hx =>
    split at h
    · next hs => exact .inl ⟨hx, hs, h⟩
    · simp at h
  · next q hx =>
    split at h
    · next hs => exact .inr ⟨q, hx, hs.1, hs.2, h⟩
    · simp at h

theorem frameStep_issue {start wait : Fsm} {cmd : List Byte} {i : State → Out} {c : Xfer → State → Out}
    (hx : s.x = none) (hs : s.fsm = start) : frameStep start wait cmd i c s = i s := by
  simp [frameStep, hx, hs]

theorem frameStep_complete {start wait : Fsm} {cmd : List Byte} {i : State → Out} {c : Xfer → State → Out}
    {q : Xfer} (hx : s.x = some q) (hs : s.fsm = wait) (hq : q.cmd = cmd) :
    frameStep start wait cmd i c s = c q s := by
  simp [frameStep, hx, hs, hq]

/-- Everything `withOutBuf` can do when it answers a next state. -/
theorem withOutBuf_cases {d : List Byte} {k : State → State} (h : withOutBuf s d k = .next t) :
    s.idx.toNat + d.length ≤ s.outBuf.size ∧
      t = k { s with outBuf := { s.outBuf with cells := s.outBuf.cells.writeBytes s.idx.toNat d } } := by
  unfold withOutBuf Buffer.write at h
  split at h
  · next b hb =>
    split at hb
    · next hle => refine ⟨hle, ?_⟩; cases hb; simpa using h.symm
    · simp at hb
  · simp at h

theorem withOutBuf_next {d : List Byte} {k : State → State}
    (h : s.idx.toNat + d.length ≤ s.outBuf.size) :
    withOutBuf s d k =
      .next (k { s with outBuf := { s.outBuf with cells := s.outBuf.cells.writeBytes s.idx.toNat d } }) := by
  simp [withOutBuf, Buffer.write, h]

/-! The outcomes of a move, and the step by state. -/

/-- What a step answers for a move. -/
def Move.outcome : Move → Out
  | .run i t => exec i t
  | .done o => o

theorem step_eq (h : s.cfg.wf = true) : step s = (sequencerMove s).outcome := by
  simp only [step, fetch, h, if_true]
  cases sequencerMove s <;> rfl

theorem step_of_not_wf (h : s.cfg.wf = false) : step s = .refused .illFormedConfig := by
  simp [step, fetch, h]

/-- A step that answers a next state is that of an instance. -/
theorem cfg_wf_of_step (h : step s = .next t) : s.cfg.wf = true := by
  by_contra hc
  rw [step_of_not_wf (by simpa using hc)] at h
  simp at h

theorem waitMove_some {q : Xfer} {i : Instr} (hx : s.x = some q) (hd : decodeFrame s.cfg q.cmd = .ok i) :
    waitMove s = .run i s := by
  simp [waitMove, hx, hd]

@[simp] theorem run_zero : run 0 s = .next s := rfl

theorem run_succ {n : Nat} (h : step s = .next t) : run (n + 1) s = run n t := by
  simp [run, h]

theorem run_one (h : step s = .next t) : run 1 s = .next t := run_succ h

theorem run_two {u : State} (h : step s = .next t) (h' : step t = .next u) : run 2 s = .next u := by
  rw [run_succ h, run_one h']

theorem run_add {n m : Nat} (h : run n s = .next t) : run (n + m) s = run m t := by
  induction n generalizing s with
  | zero =>
    have : s = t := by simpa using h
    rw [this, Nat.zero_add]
  | succ n ih =>
    rw [show n + 1 + m = (n + m) + 1 by omega]
    simp only [run] at h ⊢
    split at h
    · exact ih h
    · simp at h
    · simp at h

end Sys2Proof.Machine
end

