-- ==== Sys2Proof/Laws/Transitions.lean ====
section
/-! SUPPORT. The inversion of `step`: every way it answers a next state, said once (the table of R23). -/

namespace Sys2Proof.Machine

variable {s t : State}

/-- Every way `step` answers a next state. -/
inductive Transition (s : State) : State → Prop where
  /-- IDLE, the host presents nothing -/
  | idle (hf : s.fsm = .idle) (hc : s.cmds = []) : Transition s s
  /-- a transfer in flight that does not complete -/
  | silent (rest : List Reply) (hf : s.fsm.waits = true) (hr : s.replies = .silent :: rest) : Transition s s
  | initStored (c : HostCmd) (rest : List HostCmd) (o : Addr) (l : Word) (hf : s.fsm = .idle)
      (hc : s.cmds = c :: rest) (hd : decodeHost c.word = .init o l) (hp : s.probed = true) :
      Transition s ((s.present c rest).acceptInit.respond (some s.g))
  | initIssue (c : HostCmd) (rest : List HostCmd) (o : Addr) (l : Word) (hf : s.fsm = .idle)
      (hc : s.cmds = c :: rest) (hd : decodeHost c.word = .init o l) (hp : s.probed = false) (hx : s.x = none) :
      Transition s ((s.present c rest).acceptInit.issue .probeWait (identRequest s.cfg))
  | readAccept (c : HostCmd) (rest : List HostCmd) (o : Addr) (l : Word) (hf : s.fsm = .idle)
      (hc : s.cmds = c :: rest) (hd : decodeHost c.word = .read o l)
      (hb : l.toNat ≤ (s.present c rest).outBuf.size) :
      Transition s ((s.present c rest).accept .read o l .rdNext)
  | writeAccept (c : HostCmd) (rest : List HostCmd) (o : Addr) (l : Word) (hf : s.fsm = .idle)
      (hc : s.cmds = c :: rest) (hd : decodeHost c.word = .write o l) (hp : s.probed = true)
      (hb : l.toNat ≤ (s.present c rest).inBuf.size) :
      Transition s ((s.present c rest).accept .write o l .wrNext)
  | eraseAccept (c : HostCmd) (rest : List HostCmd) (o : Addr) (l : Word) (hf : s.fsm = .idle)
      (hc : s.cmds = c :: rest) (hd : decodeHost c.word = .erase o l) (hp : s.probed = true) :
      Transition s ((s.present c rest).accept .erase o l .erCheck)
  | probeTake (q : Xfer) (a : Answer) (u t : State) (hf : s.fsm = .probeWait) (hx : s.x = some q)
      (hq : q.cmd = frameIdent s.cfg) (hl : Lands s q RefChip.identify id a u) (ht : probeTaken a u = .next t) :
      Transition s t
  | readEnd (hf : s.fsm = .rdNext) (hr : s.rem = 0#32) : Transition s (s.respond none)
  | readIssue (hf : s.fsm = .rdNext) (hr : s.rem ≠ 0#32) (hx : s.x = none) :
      Transition s ({ s with chunk := s.readChunk }.issue .rdWait (freadRequest s.cfg s.cur s.readChunk))
  | readTake (q : Xfer) (addr : Addr) (a : Answer) (u t : State) (hf : s.fsm = .rdWait) (hx : s.x = some q)
      (hq : q.cmd = frameRead s.cfg addr) (hl : Lands s q (RefChip.fread addr q.n.toNat) id a u)
      (ht : readTaken a u = .next t) : Transition s t
  | writeEnd (hf : s.fsm = .wrNext) (hp : s.g.pageSize ≠ 0#32) (hr : s.rem = 0#32) : Transition s (s.respond none)
  | writeIssue (d : List Byte) (hf : s.fsm = .wrNext) (hp : s.g.pageSize ≠ 0#32) (hr : s.rem ≠ 0#32) (hx : s.x = none)
      (hd : s.inBuf.read s.idx.toNat s.writeChunk.toNat = some d) :
      Transition s ({ s with chunk := s.writeChunk }.issue .wrWait (progRequest s.cfg s.cur s.writeChunk d))
  | writeTake (q : Xfer) (addr : Addr) (a : Answer) (u t : State) (hf : s.fsm = .wrWait) (hx : s.x = some q)
      (hq : q.cmd = frameProg s.cfg addr)
      (hl : Lands s q (RefChip.prog addr q.wdata) (fun s => s.progUnknown addr q.n.toNat) a u)
      (ht : writeTaken a u = .next t) : Transition s t
  | eraseReject (hf : s.fsm = .erCheck) (hs : s.g.sectorSize ≠ 0#32)
      (hm : misaligned s.g.sectorSize s.cur s.rem = true) : Transition s (s.raise .alignmentError)
  | eraseStart (hf : s.fsm = .erCheck) (hs : s.g.sectorSize ≠ 0#32)
      (hm : misaligned s.g.sectorSize s.cur s.rem = false) : Transition s { s with fsm := .erNext }
  | eraseEnd (hf : s.fsm = .erNext) (hr : s.rem = 0#32) : Transition s (s.respond none)
  | eraseIssue64k (hf : s.fsm = .erNext) (hr : s.rem ≠ 0#32) (hx : s.x = none) (hs : s.g.sectorSize = sectorLarge) :
      Transition s ({ s with chunk := s.eraseChunk }.issue .erWait (erase64kRequest s.cfg s.cur))
  | eraseIssue4k (hf : s.fsm = .erNext) (hr : s.rem ≠ 0#32) (hx : s.x = none) (hs : s.g.sectorSize ≠ sectorLarge) :
      Transition s ({ s with chunk := s.eraseChunk }.issue .erWait (erase4kRequest s.cfg s.cur))
  | erase4kTake (q : Xfer) (addr : Addr) (a : Answer) (u t : State) (hf : s.fsm = .erWait) (hx : s.x = some q)
      (hq : q.cmd = frameErase4K s.cfg addr)
      (hl : Lands s q (RefChip.erase sectorSmall.toNat addr) (fun s => s.eraseUnknown addr sectorSmall.toNat) a u)
      (ht : eraseTaken a u = .next t) : Transition s t
  | erase64kTake (q : Xfer) (addr : Addr) (a : Answer) (u t : State) (hf : s.fsm = .erWait) (hx : s.x = some q)
      (hq : q.cmd = frameErase64K s.cfg addr)
      (hl : Lands s q (RefChip.erase sectorLarge.toNat addr) (fun s => s.eraseUnknown addr sectorLarge.toNat) a u)
      (ht : eraseTaken a u = .next t) : Transition s t
  | pollIssue (hf : s.fsm = .pollIssue) (hx : s.x = none) : Transition s (s.issue .pollWait (rdsrRequest s.cfg))
  | pollTake (q : Xfer) (a : Answer) (u t : State) (hf : s.fsm = .pollWait) (hx : s.x = some q)
      (hq : q.cmd = frameRdsr s.cfg)
      (hl : Lands s q (RefChip.status s.cfg.busyMask) State.busyUnknown a u)
      (ht : pollTaken a u = .next t) : Transition s t
  | take (hf : s.fsm = .resp) : Transition s s.takeResult

/-- A waiting state with a frame in flight. -/
theorem transition_of_wait {i : Instr} {q : Xfer} (hw : s.fsm.waits = true) (hx : s.x = some q)
    (hd : decodeFrame s.cfg q.cmd = .ok i) (h : exec i s = .next t) : Transition s t := by
  have hidle : s.fsm ≠ .idle := by intro hf; simp [hf, Fsm.waits] at hw
  cases i <;> simp only [exec] at h
  case init | read | write | erase =>
    exfalso
    unfold decodeFrame rejectFrame at hd
    repeat' split at hd
    all_goals cases hd
  all_goals
    simp only [execIdent, execFread, execProg, execErase4k, execErase64k, execRdsr] at h
    rcases frameStep_cases h with ⟨hx', -, -⟩ | ⟨q', hx', hf, hq, h⟩
    · simp [hx] at hx'
    rcases complete_next h with ⟨rest, hr, rfl⟩ | ⟨a, u, hl, ht⟩
    · exact .silent rest hw hr
  case ident => exact .probeTake q' a u t hf hx' hq hl ht
  case fread => exact .readTake q' _ a u t hf hx' hq hl ht
  case prog => exact .writeTake q' _ a u t hf hx' hq hl ht
  case erase4k => exact .erase4kTake q' _ a u t hf hx' hq hl ht
  case erase64k => exact .erase64kTake q' _ a u t hf hx' hq hl ht
  case rdsr => exact .pollTake q' a u t hf hx' hq hl ht

/-- IDLE with a command presented. -/
theorem transition_of_present {c : HostCmd} {rest : List HostCmd} (hf : s.fsm = .idle) (hc : s.cmds = c :: rest)
    (h : exec (decodeHost c.word) (s.present c rest) = .next t) : Transition s t := by
  have hf' : (s.present c rest).fsm = .idle := hf
  have hp' : (s.present c rest).probed = s.probed := rfl
  cases hd : decodeHost c.word <;> rw [hd] at h <;> simp only [exec] at h
  case init o l =>
    simp only [execInit, hf', if_true, hp'] at h
    split at h
    · next hp => cases h; exact .initStored c rest o l hf hc hd hp
    · next hp =>
      simp only [execIdent] at h
      rcases frameStep_cases h with ⟨hx, -, h⟩ | ⟨q, -, hw, -⟩
      · cases h; exact .initIssue c rest o l hf hc hd (by simpa using hp) hx
      · simp [hf] at hw
  case read o l =>
    simp only [execRead, hf', if_true] at h
    split at h
    · simp at h
    · next hb => cases h; exact .readAccept c rest o l hf hc hd (by omega)
  case write o l =>
    simp only [execWrite, hf', if_true, hp'] at h
    split at h
    · next hp =>
      split at h
      · simp at h
      · next hb => cases h; exact .writeAccept c rest o l hf hc hd hp (by omega)
    · simp at h
  case erase o l =>
    simp only [execErase, hf', if_true, hp'] at h
    split at h
    · next hp => cases h; exact .eraseAccept c rest o l hf hc hd hp
    · simp at h
  all_goals
    exfalso
    unfold decodeHost at hd
    repeat' split at hd
    all_goals cases hd

/-- What a step can do. -/
theorem step_transition (h : step s = .next t) : Transition s t := by
  have hwf := cfg_wf_of_step h
  rw [step_eq hwf] at h
  have hwait : s.fsm.waits = true → (waitMove s).outcome = .next t → Transition s t := by
    intro hw h
    unfold waitMove at h
    split at h
    · simp [Move.outcome] at h
    · next q hx =>
      split at h
      · next i hi => exact transition_of_wait hw hx hi h
      · simp [Move.outcome] at h
  cases hf : s.fsm <;> simp only [sequencerMove, hf] at h
  case probeWait | rdWait | wrWait | erWait | pollWait => exact hwait (by rw [hf]; rfl) h
  case idle =>
    unfold idleMove at h
    split at h
    · next hc => cases h; exact .idle hf hc
    · next c rest hc => exact transition_of_present hf hc h
  case rdNext =>
    unfold readHead at h
    split at h
    · next hr => cases h; exact .readEnd hf hr
    · next hr =>
      simp only [Move.outcome, exec, execFread] at h
      rcases frameStep_cases h with ⟨hx, -, h⟩ | ⟨q, -, hw, -⟩
      · cases h; exact .readIssue hf hr hx
      · simp [hf] at hw
  case wrNext =>
    unfold writeHead at h
    split at h
    · simp [Move.outcome] at h
    · next hp =>
      split at h
      · next hr => cases h; exact .writeEnd hf hp hr
      · next hr =>
        simp only [Move.outcome, exec, execProg] at h
        rcases frameStep_cases h with ⟨hx, -, h⟩ | ⟨q, -, hw, -⟩
        · split at h
          · next d hd => cases h; exact .writeIssue d hf hp hr hx hd
          · simp at h
        · simp [hf] at hw
  case erCheck =>
    unfold eraseCheck at h
    split at h
    · simp [Move.outcome] at h
    · next hs =>
      split at h
      · next hm => cases h; exact .eraseReject hf hs hm
      · next hm => cases h; exact .eraseStart hf hs (by simpa using hm)
  case erNext =>
    unfold eraseHead at h
    split at h
    · next hr => cases h; exact .eraseEnd hf hr
    · next hr =>
      simp only [Move.outcome, State.eraseFrame] at h
      split at h
      · next hs =>
        simp only [exec, execErase64k] at h
        rcases frameStep_cases h with ⟨hx, -, h⟩ | ⟨q, -, hw, -⟩
        · cases h; exact .eraseIssue64k hf hr hx hs
        · simp [hf] at hw
      · next hs =>
        simp only [exec, execErase4k] at h
        rcases frameStep_cases h with ⟨hx, -, h⟩ | ⟨q, -, hw, -⟩
        · cases h; exact .eraseIssue4k hf hr hx hs
        · simp [hf] at hw
  case pollIssue =>
    simp only [Move.outcome, exec, execRdsr] at h
    rcases frameStep_cases h with ⟨hx, -, h⟩ | ⟨q, -, hw, -⟩
    · cases h; exact .pollIssue hf hx
    · simp [hf] at hw
  case resp => cases h; exact .take hf

end Sys2Proof.Machine
end

