-- ==== Sys2Proof/Tests/Slice0.lean ====
section
/-! SUPPORT. The tests: checks refuse, decoding, one step of each instruction (expected values from
95_test_vectors.md), and for every statement with hypotheses a state and operands that meet them. -/

namespace Sys2Proof.Tests

open Sys2Proof.Machine

/-! Helpers. -/

/-- The geometry of V-INIT 1. -/
def geo4k : Geometry := ⟨0xEF, 0x15, 256, 4096, 0x00200000⟩
/-- The geometry of V-INIT 2. -/
def geo64k : Geometry := ⟨0xEF, 0x20, 256, 65536, 0x00200000⟩
/-- `e1`, the one value of CFG0's `TERR` (R8). -/
def e1 : Terr := 0
/-- FCF probed on a chip of 4 KiB sectors, in a state of the sequencer. -/
def inState (f : Fsm) : State := { State.reset with g := geo4k, fsm := f }
/-- With a transfer in flight and the transport's answer to it. -/
def answering (f : Fsm) (q : Xfer) (a : Answer) : State :=
  { inState f with x := some q, replies := [.answer a] }
/-- Not probed, the identify transfer in flight, answered. -/
def probing (a : Answer) : State :=
  { State.reset with fsm := .probeWait, x := some (identRequest cfg0), replies := [.answer a] }
/-- A status read in flight, answered. -/
def reading (p : PollClass) (ctr : Word) (a : Answer) : State :=
  { answering .pollWait (rdsrRequest cfg0) a with pclass := p, ctr := ctr, op := .write }
/-- A buffer that holds the bytes of a list. -/
def bufferOf (bs : List Byte) : Buffer := { size := bs.length, cells := Memory.writeBytes [] 0 bs }
/-- A field of the next state. -/
def after {α : Type} (f : State → α) : Out → Option α
  | .next t => some (f t)
  | .fault _ => none
  | .refused _ => none
/-- The invariant of a small state, from what Lean decides. -/
theorem inv_small {s : State} (h : s.cfg.wf = true) (hg : s.g.zeroOrPopulated s.cfg)
    (hx : s.x.isSome = s.fsm.waits) (ht : s.trace = []) (hs : s.sequenced) (hc : s.cmds = [])
    (hm : s.chip.mem.wf = true ∧ s.chip.mem.below (2 ^ 24) = true ∧ s.inBuf.wf = true ∧ s.outBuf.wf = true)
    (he : ∀ r ∈ s.res :: s.results, r.inTerr s.cfg = true := by decide) : s.Inv where
  config := h
  geometry := hg
  slot := by rw [← hx]; cases s.x <;> simp
  requests := by simp [ht]
  sequence := hs
  memory := ⟨hm.1, hm.2.1, hm.2.2.1, hm.2.2.2, by simp [hc]⟩
  errorValues := he
theorem populated_4k : geo4k.zeroOrPopulated cfg0 := .inr ⟨rfl, rfl, by decide, fun _ => rfl, rfl⟩

/-! Checks. -/

theorem test_wf_refuses_misaligned_erase4k : (Instr.erase4k 0x001001).wf = false := by decide
theorem test_wf_refuses_misaligned_erase64k : (Instr.erase64k 0x001000).wf = false := by decide
theorem test_wf_accepts_aligned :
    (Instr.erase4k 0x001000).wf = true ∧ (Instr.erase64k 0xFF0000).wf = true ∧ (Instr.prog 0x0010FE).wf = true := by
  decide
theorem test_config_refuses_equal_opcodes : { cfg0 with opcRdsr := 0x9F }.wf = false := by decide
theorem test_config_refuses_busy_mask :
    { cfg0 with busyMask := 0x00 }.wf = false ∧ { cfg0 with busyMask := 0x81 }.wf = false := by decide
theorem test_config_refuses_err_mask_on_busy : { cfg0 with errMask := 0x01 }.wf = false := by decide
theorem test_config_refuses_err_expect_outside : { cfg0 with errExpect := 0x20 }.wf = false := by decide
theorem test_config_refuses_id_len : { cfg0 with idLen := 5 }.wf = false := by decide
theorem test_config_refuses_indexes :
    { cfg0 with mfrIndex := 2 }.wf = false ∧ { cfg0 with capIndex := 3 }.wf = false ∧
      { cfg0 with capIndex := 0 }.wf = false := by decide
theorem test_config_refuses_zero_transfer : { cfg0 with maxXfer := 0 }.wf = false := by decide
theorem test_config_refuses_budgets :
    { cfg0 with progBudget := 0 }.wf = false ∧ { cfg0 with eraseBudget := 4 }.wf = false := by decide
theorem test_config_refuses_empty_terr : { cfg0 with terrSize := some 0 }.wf = false := by decide
/-- Another `TERR` than CFG0's, of two values or of infinitely many, is an instance. -/
theorem test_config_terr_is_a_parameter :
    cfg0.hasTerr e1 = true ∧ cfg0.hasTerr 1 = false ∧ { cfg0 with terrSize := some 2 }.wf = true ∧
      { cfg0 with terrSize := some 2 }.hasTerr 1 = true ∧ { cfg0 with terrSize := none }.wf = true ∧
      { cfg0 with terrSize := none }.hasTerr 9 = true := by decide
theorem test_reset_memory_wf : State.reset.chip.mem.wf = true := by decide
theorem test_result_codes :
    (Result.ok none).code = 0 ∧ Error.geometryMismatch.code = 1 ∧ Error.alignmentError.code = 2 ∧
      (Error.transportError 7).code = 3 ∧ Error.programTimeout.code = 4 ∧ Error.eraseTimeout.code = 5 := by decide

/-! Decoding: words of V-CMD and V-ENC. -/

theorem test_decode_init : decodeHost 0x0ABCDEF12345678 = .init 0xABCDEF 0x12345678 := by decide
theorem test_decode_read : decodeHost 0x10010FE00000004 = .read 0x0010FE 4 := by decide
theorem test_decode_write : decodeHost 0x20001040000012C = .write 260 300 := by decide
theorem test_decode_erase : decodeHost 0x301000000020000 = .erase 0x010000 0x20000 := by decide
theorem test_decode_ident : decodeFrame cfg0 [0x9F] = .ok .ident := by decide
theorem test_decode_fread : decodeFrame cfg0 [0x0B, 0x01, 0x23, 0x45, 0x00] = .ok (.fread 0x012345) := by decide
theorem test_decode_prog : decodeFrame cfg0 [0x02, 0xAB, 0xCD, 0xEF] = .ok (.prog 0xABCDEF) := by decide
theorem test_decode_erase4k : decodeFrame cfg0 [0x20, 0x00, 0x10, 0x00] = .ok (.erase4k 0x001000) := by decide
theorem test_decode_erase64k : decodeFrame cfg0 [0xD8, 0xFF, 0x00, 0x00] = .ok (.erase64k 0xFF0000) := by decide
theorem test_decode_rdsr : decodeFrame cfg0 [0x05] = .ok .rdsr := by decide
theorem test_decode_rejects :
    decodeFrame cfg0 [] = .error .empty ∧ decodeFrame cfg0 [0x06] = .error .unknownOpcode ∧
      decodeFrame cfg0 [0x9F, 0x00] = .error .wrongLength ∧
      decodeFrame cfg0 [0x0B, 0x01, 0x23, 0x45] = .error .wrongLength ∧
      decodeFrame cfg0 [0x0B, 0x01, 0x23, 0x45, 0xA5] = .error .wrongDummy := by decide
/-- V-ENC: another dummy byte. -/
theorem test_encode_dummy_a5 :
    frameRead { cfg0 with dummyValue := 0xA5 } 0x012345 = [0x0B, 0x01, 0x23, 0x45, 0xA5] := by decide
/-- The table's numbering: the first byte sent is the highest. -/
theorem test_decode_table_word :
    decodeTableWord 32 0x20001000 = some (.erase4k 0x001000) ∧ decodeTableWord 40 0x0B01234500 = some (.fread 0x012345) ∧
      decodeTableWord 58 0x20001040000012C = some (.write 260 300) := by decide
theorem test_call : (Instr.erase 0x001000 0x1000).call = some "erase(4096, 4096)" := by decide

/-! One step of each instruction. -/

/-- V-INIT 8: no transfer. -/
theorem test_init_probed :
    after (fun t => (t.fsm, t.res, t.x)) (exec (.init 0 0) (inState .idle)) =
      some (.resp, .ok (some geo4k), none) := by decide
/-- V-INIT 1, the identify transfer: `[9F] / RD 3`. -/
theorem test_init_issues_ident :
    after (fun t => (t.fsm, t.trace)) (exec (.init 0xABCDEF 1) State.reset) =
      some (.probeWait, [⟨[0x9F], .rd, 3, []⟩]) := by decide
/-- V-INIT 2 and 3. -/
theorem test_ident_geometry :
    after (fun t => t.g) (exec .ident (probing (.ok [0xEF, 0x70, 0x20]))) = some geo64k ∧
      after (fun t => t.g.sectorSize) (exec .ident (probing (.ok [0xEF, 0x20, 0x00]))) = some 4096 := by decide
/-- V-INIT 5 and 6. -/
theorem test_ident_fails :
    after (fun t => (t.g, t.res)) (exec .ident (probing (.ok [0x00, 0xEF, 0x20]))) =
        some (Geometry.zero, .error .geometryMismatch) ∧
      after (fun t => (t.g, t.res)) (exec .ident (probing (.err e1))) =
        some (Geometry.zero, .error (.transportError e1)) := by decide
/-- R55, D30: an `Err` carries a value of `TERR`, which goes through unchanged. -/
theorem test_ident_error_value_of_terr :
    exec .ident (probing (.err 1)) = .fault .brokenContract ∧
      after (fun t => t.res) (exec .ident { probing (.err 1) with cfg := { cfg0 with terrSize := some 2 } }) =
        some (.error (.transportError 1)) := ⟨by rfl, by decide⟩
theorem test_read_accepted :
    after (fun t => (t.op, t.cur, t.rem, t.fsm))
        (exec (.read 0x0010FE 4) { State.reset with outBuf := ⟨4, []⟩ }) =
      some (.read, 0x0010FE, 4, .rdNext) := by decide
/-- E2, T3: `MAX_XFER` 4, the last chunk of 10 bytes. -/
theorem test_fread_issued :
    after (fun t => (t.x, t.chunk)) (step { inState .rdNext with
        cfg := { cfg0 with maxXfer := 4 }, cur := 0x000108, rem := 2, idx := 8 }) =
      some (some ⟨[0x0B, 0x00, 0x01, 0x08, 0x00], .rd, 2, []⟩, 2) := by decide
/-- P3, T8: the bytes land at index 4; the address and the rest advance. -/
theorem test_fread_completes :
    after (fun t => (t.outBuf, t.cur, t.idx, t.rem)) (exec (.fread 0x000104)
        { answering .rdWait (freadRequest cfg0 0x000104 4) (.ok [4, 5, 6, 7]) with
          outBuf := ⟨10, []⟩, cur := 0x000104, idx := 4, rem := 6, chunk := 4 }) =
      some (⟨10, [(4, 4), (5, 5), (6, 6), (7, 7)]⟩, 0x000108, 8, 2) := by decide
theorem test_write_accepted :
    after (fun t => (t.op, t.cur, t.rem, t.idx, t.fsm))
        (exec (.write 260 300) { inState .idle with inBuf := ⟨300, []⟩, idx := 7 }) =
      some (.write, 260, 300, 0, .wrNext) := by decide
/-- V-WRITE 16. -/
theorem test_write_unprobed : exec (.write 0 0) State.reset = .refused .notProbed := by rfl
/-- E1, iteration 2: one byte up to the page boundary. -/
theorem test_prog_issued :
    after (fun t => (t.x, t.chunk)) (step { inState .wrNext with
        inBuf := ⟨300, [(251, 0xFB)]⟩, cur := 511, rem := 49, idx := 251 }) =
      some (some ⟨[0x02, 0x00, 0x01, 0xFF], .wr, 1, [0xFB]⟩, 1) := by decide
/-- P1, the page wrap of REFCHIP: four bytes at `0x0010FE` put the last two at `0x001000`. -/
theorem test_prog_wraps_in_page :
    after (fun t => (t.chip.mem, t.ctr, t.fsm)) (exec (.prog 0x0010FE)
        { inState .wrWait with x := some (progRequest cfg0 0x0010FE 4 [0xA1, 0xB2, 0xC3, 0xD4]) }) =
      some ([(0x1000, 0xC3), (0x1001, 0xD4), (0x10FE, 0xA1), (0x10FF, 0xB2)], 4, .pollIssue) := by decide
theorem test_erase_accepted :
    after (fun t => (t.op, t.cur, t.rem, t.fsm)) (exec (.erase 0x001000 0x1001) (inState .idle)) =
      some (.erase, 0x001000, 0x1001, .erCheck) := by decide
/-- V-ERASE 4 and 8. -/
theorem test_erase_misaligned :
    after (fun t => (t.res, t.trace)) (step { inState .erCheck with cur := 1 }) =
        some (.error .alignmentError, []) ∧
      after (fun t => t.res) (step { inState .erCheck with g := geo64k, cur := 0x001000, rem := 0x1000 }) =
        some (.error .alignmentError) := by decide
/-- V-ERASE 2, the second sector. -/
theorem test_erase4k_issued :
    after (fun t => (t.x, t.chunk)) (step { inState .erNext with cur := 0x002000, rem := 0x2000 }) =
      some (some ⟨[0x20, 0x00, 0x20, 0x00], .none, 0, []⟩, 4096) := by decide
/-- P1, T2: the sector and only it; the whole erase budget. -/
theorem test_erase4k_completes :
    after (fun t => (t.chip.mem, t.ctr, t.pclass)) (exec (.erase4k 0x001000)
        { inState .erWait with
          x := some (erase4kRequest cfg0 0x001000)
          chip := ⟨[(0xFFF, 0), (0x1000, 0), (0x1FFF, 0), (0x2000, 0)], 0, [], [], .refchip⟩ }) =
      some ([(0xFFF, 0), (0x2000, 0)], 8, .erase) := by decide
/-- P2, T5. -/
theorem test_erase64k_issued :
    after (fun t => t.x) (step { inState .erNext with g := geo64k, cur := 0x020000, rem := 0x10000 }) =
      some (some ⟨[0xD8, 0x02, 0x00, 0x00], .none, 0, []⟩) := by decide
theorem test_erase64k_fails :
    after (fun t => (t.fsm, t.res)) (exec (.erase64k 0x010000)
        (answering .erWait (erase64kRequest cfg0 0x010000) (.err e1))) =
      some (.resp, .error (.transportError e1)) := by decide
/-- V-POLL 3, the last read: Done with the counter at 1; V-POLL 8: other bits are ignored. -/
theorem test_rdsr_ready_on_last_read :
    after (fun t => (t.fsm, t.ctr)) (exec .rdsr (reading .program 1 (.ok [0x00]))) = some (.wrNext, 1) ∧
      after (fun t => t.fsm) (exec .rdsr (reading .program 4 (.ok [0xFE]))) = some .wrNext := by decide
/-- V-POLL 4 and 7, the last read; V-POLL 11. -/
theorem test_rdsr_timeouts :
    after (fun t => (t.ctr, t.res)) (exec .rdsr (reading .program 1 (.ok [0x01]))) =
        some (0, .error .programTimeout) ∧
      after (fun t => (t.ctr, t.res)) (exec .rdsr (reading .erase 1 (.ok [0x01]))) =
        some (0, .error .eraseTimeout) ∧
      after (fun t => (t.ctr, t.res)) (exec .rdsr (reading .program 1 (.err e1))) =
        some (1, .error (.transportError e1)) := by decide
/-- P3, T6 and T9: REFCHIP keeps what it has programmed when the poll times out; a transfer it answers may come
before one that fails. -/
theorem test_refchip_keeps_its_cells :
    after (fun t => (t.chip.mem, t.chip.busyn, t.replies)) (exec .rdsr
        { reading .program 1 (.ok [0]) with
          chip := ⟨[(0, 0x11), (1, 0x22)], 997, [], [], .refchip⟩, replies := [.chip, .answer (.err e1)] }) =
      some ([(0, 0x11), (1, 0x22)], 996, [.answer (.err e1)]) := by decide
/-- V-ERASE 11, the first sector: the chip erases it, and the next transfer is the one that fails. -/
theorem test_erase_before_a_failing_transfer :
    after (fun t => (t.chip.mem, t.replies)) (exec (.erase4k 0x001000)
        { inState .erWait with
          x := some (erase4kRequest cfg0 0x001000)
          chip := ⟨[(0x1000, 0), (0x2000, 0)], 0, [], [], .settled⟩, replies := [.chip, .chip, .answer (.err e1)] }) =
      some ([(0x2000, 0)], [.chip, .answer (.err e1)]) := by decide
/-- R61: a read that REFCHIP answers wraps at `2^24` (GK6). -/
theorem test_fread_answered_by_the_chip :
    after (fun t => t.outBuf) (exec (.fread 0xFFFFFF)
        { inState .rdWait with
          x := some (freadRequest cfg0 0xFFFFFF 2), outBuf := ⟨2, []⟩, rem := 2, chunk := 2
          chip := ⟨[(0, 5), (0xFFFFFF, 9)], 0, [], [], .refchip⟩ }) = some ⟨2, [(0, 9), (1, 5)]⟩ := by decide
/-- U3: the last byte of a capacity of `0x00200000`, and one past it. -/
theorem test_request_past_capacity :
    after (fun t => t.pastCapacity) (exec (.read 0x1FFFFF 1) { State.reset with outBuf := ⟨2, []⟩ }) = some false ∧
      after (fun t => t.pastCapacity) (exec (.read 0x1FFFFF 2) { State.reset with outBuf := ⟨2, []⟩ }) = some true := by
  decide
/-- U3: past its capacity a real chip's conduct is open after a PROG; REFCHIP programs the cell. -/
theorem test_prog_past_capacity :
    after (fun t => t.chip.conduct) (exec (.prog 0x200000) { inState .wrWait with
        x := some (progRequest cfg0 0x200000 1 [5]), pastCapacity := true, chip := ⟨[], 0, [], [], .settled⟩ }) =
        some .unsettled ∧
      after (fun t => t.chip.mem) (exec (.prog 0x200000) { inState .wrWait with
        x := some (progRequest cfg0 0x200000 1 [5]), pastCapacity := true }) = some [(0x200000, 5)] := by decide
/-- U7: a real chip is unsettled by a status read that fails, and settled by a poll that ends with Done. -/
theorem test_unsettled_until_done :
    after (fun t => t.chip.conduct) (exec .rdsr { reading .program 2 (.err e1) with
        chip := ⟨[], 0, [], [], .settled⟩ }) = some .unsettled ∧
      after (fun t => t.chip.conduct) (exec .rdsr { reading .program 2 (.ok [0]) with
        chip := ⟨[], 0, [], [], .unsettled⟩ }) = some .settled := by decide

/-! Witnesses: for each statement, a state and operands that meet its hypotheses together, one for each clause. -/

/-- ERASE of one sector, presented. -/
def eraseCmd (l : Word) : HostCmd := ⟨hostWord 0b11 0x001000 l, none, none⟩

theorem witness_StepRunsTheDecodedInstruction :
    (({ inState .idle with cmds := [eraseCmd 0x1000] } : State).cfg.wf = true ∧ (inState .idle).fsm = .idle ∧
      ({ inState .idle with cmds := [eraseCmd 0x1000] } : State).cmds = eraseCmd 0x1000 :: []) ∧
    ((probing (.err e1)).cfg.wf = true ∧ (probing (.err e1)).fsm.waits = true ∧
      (probing (.err e1)).x = some (identRequest cfg0) ∧ decodeFrame cfg0 (identRequest cfg0).cmd = .ok .ident) := by
  decide
theorem witness_IssueLoadsTheFrameBuffer :
    (rdsrRequest cfg0).cmd.length = 1 ∧ (progRequest cfg0 0 1 [0]).cmd.length = 4 ∧
      (freadRequest cfg0 0 1).cmd.length ≤ 5 ∧ (freadRequest cfg0 0 1).cmd.length = 5 := by decide
theorem witness_HostCommandOutsideIdleHasNoEffect :
    (Instr.read 0 1).level = .hostCommand ∧ (inState .rdWait).fsm ≠ .idle := by decide
theorem witness_InitWhenProbedReturnsTheStoredGeometry :
    (inState .idle).fsm = .idle ∧ (inState .idle).g.pageSize ≠ 0#32 := by decide
theorem witness_InitIssuesTheIdentifyTransfer :
    State.reset.fsm = .idle ∧ State.reset.g.pageSize = 0#32 ∧ State.reset.x = none := by decide
theorem witness_IdentifyFailureRaisesTransportError :
    (probing (.err e1)).fsm = .probeWait ∧ (probing (.err e1)).x = some (identRequest cfg0) ∧
      (identRequest cfg0).cmd = frameIdent cfg0 ∧ (probing (.err e1)).replies = .answer (.err e1) :: [] ∧
      cfg0.hasTerr e1 = true := by decide
theorem witness_WrongManufacturerRaisesGeometryMismatch :
    (probing (.ok [0xC2, 0x20, 0x18])).fsm = .probeWait ∧
      (probing (.ok [0xC2, 0x20, 0x18])).x = some (identRequest cfg0) ∧
      (identRequest cfg0).cmd = frameIdent cfg0 ∧
      (probing (.ok [0xC2, 0x20, 0x18])).replies = .answer (.ok [0xC2, 0x20, 0x18]) :: [] ∧
      [0xC2, 0x20, 0x18].length = (identRequest cfg0).answerLength ∧
      ([0xC2, 0x20, 0x18] : List Byte).getD cfg0.mfrIndex 0 ≠ cfg0.mfrExpected := by decide
theorem witness_RightManufacturerWritesTheGeometry :
    (probing (.ok [0xEF, 0x70, 0x20])).fsm = .probeWait ∧
      (probing (.ok [0xEF, 0x70, 0x20])).x = some (identRequest cfg0) ∧
      (identRequest cfg0).cmd = frameIdent cfg0 ∧
      (probing (.ok [0xEF, 0x70, 0x20])).replies = .answer (.ok [0xEF, 0x70, 0x20]) :: [] ∧
      [0xEF, 0x70, 0x20].length = (identRequest cfg0).answerLength ∧
      ([0xEF, 0x70, 0x20] : List Byte).getD cfg0.mfrIndex 0 = cfg0.mfrExpected := by decide
/-- The buffer exactly as long as the request. -/
theorem witness_ReadIsAccepted :
    (inState .idle).fsm = .idle ∧ (4 : Word).toNat ≤ ({ inState .idle with outBuf := ⟨4, []⟩ } : State).outBuf.size := by
  decide
/-- The end of a READ, and its last byte. -/
theorem witness_ReadLoopHead :
    (inState .rdNext).cfg.wf = true ∧ (inState .rdNext).fsm = .rdNext ∧ (inState .rdNext).x = none ∧
      (inState .rdNext).rem = 0#32 ∧ ({ inState .rdNext with rem := 1 } : State).rem ≠ 0#32 := by decide
theorem witness_FreadIsIssued : (inState .rdNext).fsm = .rdNext ∧ (inState .rdNext).x = none := by decide

/-- The last two bytes of OUT_BUF in flight. -/
def lastChunk (a : Answer) : State :=
  { answering .rdWait (freadRequest cfg0 0x000108 2) a with
    op := .read, outBuf := bufferOf [0, 1, 2, 3], cur := 0x000108, idx := 2, rem := 2, chunk := 2 }

theorem witness_FreadSuccessStoresTheChunkAndAdvances :
    (lastChunk (.ok [8, 9])).fsm = .rdWait ∧ (lastChunk (.ok [8, 9])).x = some (freadRequest cfg0 0x000108 2) ∧
      (freadRequest cfg0 0x000108 2).cmd = frameRead cfg0 0x000108 ∧ (freadRequest cfg0 0x000108 2).dir = .rd ∧
      (lastChunk (.ok [8, 9])).replies = .answer (.ok [8, 9]) :: [] ∧
      [8, 9].length = (freadRequest cfg0 0x000108 2).n.toNat ∧
      ({ lastChunk (.ok [8, 9]) with replies := [.chip] } : State).asksChip [] ∧ (lastChunk (.ok [8, 9])).chipFixed ∧
      (lastChunk (.ok [8, 9])).idx.toNat + (freadRequest cfg0 0x000108 2).n.toNat ≤
        (lastChunk (.ok [8, 9])).outBuf.size ∧
      (lastChunk (.ok [8, 9])).outBuf.wf = true := by decide
theorem witness_FreadFailureLeavesEarlierChunksIntact :
    (lastChunk (.err e1)).fsm = .rdWait ∧ (lastChunk (.err e1)).x = some (freadRequest cfg0 0x000108 2) ∧
      (freadRequest cfg0 0x000108 2).cmd = frameRead cfg0 0x000108 ∧
      (lastChunk (.err e1)).replies = .answer (.err e1) :: [] ∧ (lastChunk (.err e1)).cfg.hasTerr e1 = true ∧
      (lastChunk (.err e1)).idx.toNat + (lastChunk (.err e1)).chunk.toNat ≤ (lastChunk (.err e1)).outBuf.size ∧
      (lastChunk (.err e1)).outBuf.wf = true := by decide
theorem witness_WriteIsAccepted :
    (inState .idle).fsm = .idle ∧ (inState .idle).g.pageSize ≠ 0#32 ∧
      (4 : Word).toNat ≤ ({ inState .idle with inBuf := ⟨4, []⟩ } : State).inBuf.size := by decide
theorem witness_WriteAndEraseAreRefusedUnprobed :
    State.reset.fsm = .idle ∧ State.reset.g.pageSize = 0#32 := by decide

/-- WRITE's loop head at the last byte of a page, two bytes left. -/
def writing : State :=
  { inState .wrNext with op := .write, inBuf := bufferOf [0xA1, 0xB2, 0xC3, 0xD4], cur := 0x0010FF, idx := 2, rem := 2 }

theorem witness_WriteLoopHead :
    writing.cfg.wf = true ∧ writing.fsm = .wrNext ∧ writing.x = none ∧ writing.g.pageSize = 256 ∧
      writing.idx.toNat + writing.rem.toNat ≤ writing.inBuf.size ∧ writing.rem ≠ 0#32 ∧
      ({ writing with idx := 4, rem := 0 } : State).idx.toNat + 0 ≤ writing.inBuf.size := by decide
theorem witness_ProgIsIssued :
    writing.fsm = .wrNext ∧ writing.x = none ∧
      ({ writing with chunk := 2 } : State).idx.toNat + 2 ≤ writing.inBuf.size := by decide
theorem witness_ProgSuccessEntersTheProgramPoll :
    (answering .wrWait (progRequest cfg0 0x0010FE 1 [5]) (.ok [])).fsm = .wrWait ∧
      (answering .wrWait (progRequest cfg0 0x0010FE 1 [5]) (.ok [])).x = some (progRequest cfg0 0x0010FE 1 [5]) ∧
      (progRequest cfg0 0x0010FE 1 [5]).cmd = frameProg cfg0 0x0010FE ∧ (progRequest cfg0 0x0010FE 1 [5]).dir ≠ .rd ∧
      (answering .wrWait (progRequest cfg0 0x0010FE 1 [5]) (.ok [])).replies = .answer (.ok []) :: [] ∧
      ({ inState .wrWait with replies := [.chip] } : State).asksChip [] ∧ (inState .wrWait).asksChip [] := by decide
theorem witness_WriteClassFailureRaisesTransportError :
    ((answering .wrWait (progRequest cfg0 0 1 [5]) (.err e1)).replies = .answer (.err e1) :: [] ∧
      (answering .wrWait (progRequest cfg0 0 1 [5]) (.err e1)).cfg.hasTerr e1 = true ∧
      (answering .wrWait (progRequest cfg0 0 1 [5]) (.err e1)).chip.mem.wf = true ∧
      ¬ (answering .wrWait (progRequest cfg0 0 1 [5]) (.err e1)).beyond ∧
      (answering .wrWait (progRequest cfg0 0 1 [5]) (.err e1)).fsm = .wrWait ∧
      (progRequest cfg0 0 1 [5]).cmd = frameProg cfg0 0) ∧
    ((answering .erWait (erase4kRequest cfg0 0x001000) (.err e1)).fsm = .erWait ∧
      (erase4kRequest cfg0 0x001000).cmd = frameErase4K cfg0 0x001000) ∧
    ((answering .erWait (erase64kRequest cfg0 0x010000) (.err e1)).fsm = .erWait ∧
      (erase64kRequest cfg0 0x010000).cmd = frameErase64K cfg0 0x010000) := by decide
theorem witness_EraseIsAccepted : (inState .idle).fsm = .idle ∧ (inState .idle).g.pageSize ≠ 0#32 := by decide
/-- Only the offset misaligned, only the length, neither. -/
theorem witness_EraseChecksAlignment :
    (inState .erCheck).cfg.wf = true ∧ (inState .erCheck).fsm = .erCheck ∧ (inState .erCheck).g.sectorSize ≠ 0#32 ∧
      (1 : Addr).toNat % geo4k.sectorSize.toNat ≠ 0 ∧ (0x1001 : Word).toNat % geo4k.sectorSize.toNat ≠ 0 ∧
      (0x001000 : Addr).toNat % geo4k.sectorSize.toNat = 0 ∧ (0 : Word).toNat % geo4k.sectorSize.toNat = 0 := by decide
theorem witness_MisalignedEraseIssuesNoTransfer :
    ({ inState .idle with cmds := [eraseCmd 0x1001] } : State).Inv ∧ (inState .idle).probed = true ∧
      decodeHost (eraseCmd 0x1001).word = .erase 0x001000 0x1001 ∧
      (0x1001 : Word).toNat % geo4k.sectorSize.toNat ≠ 0 := by
  refine ⟨⟨by decide, populated_4k, by decide, by simp [inState, State.reset], trivial, ?_, by decide⟩, by decide⟩
  exact ⟨rfl, rfl, rfl, rfl, by simp [eraseCmd]⟩
theorem witness_EraseLoopHead :
    (inState .erNext).cfg.wf = true ∧ (inState .erNext).fsm = .erNext ∧ (inState .erNext).x = none ∧
      (inState .erNext).g.sectorSize = 4096 ∧ geo64k.sectorSize = 65536 ∧ (inState .erNext).rem = 0#32 ∧
      ({ inState .erNext with rem := 0x1000 } : State).rem ≠ 0#32 := by decide
theorem witness_EraseFramesAreIssued : (inState .erNext).fsm = .erNext ∧ (inState .erNext).x = none := by decide
theorem witness_EraseFrameSuccessEntersTheErasePoll :
    (answering .erWait (erase4kRequest cfg0 0x001000) (.ok [])).fsm = .erWait ∧
      (answering .erWait (erase4kRequest cfg0 0x001000) (.ok [])).replies = .answer (.ok []) :: [] ∧
      (erase4kRequest cfg0 0x001000).dir ≠ .rd ∧ (erase4kRequest cfg0 0x001000).cmd = frameErase4K cfg0 0x001000 ∧
      (erase64kRequest cfg0 0x010000).dir ≠ .rd ∧
      (erase64kRequest cfg0 0x010000).cmd = frameErase64K cfg0 0x010000 ∧ (inState .erWait).asksChip [] := by decide
theorem witness_PollIssuesAStatusRead :
    (inState .pollIssue).fsm = .pollIssue ∧ (inState .pollIssue).x = none ∧ (inState .pollIssue).cfg.wf = true := by
  decide
theorem witness_StatusReadFailureRaisesTransportError :
    (reading .erase 1 (.err e1)).fsm = .pollWait ∧ (reading .erase 1 (.err e1)).x = some (rdsrRequest cfg0) ∧
      (rdsrRequest cfg0).cmd = frameRdsr cfg0 ∧ (reading .erase 1 (.err e1)).replies = .answer (.err e1) :: [] ∧
      (reading .erase 1 (.err e1)).cfg.hasTerr e1 = true ∧ (reading .erase 1 (.err e1)).chip.mem.wf = true ∧
      (reading .erase 1 (.err e1)).chip.conduct = .refchip ∧
      ¬ (reading .erase 1 (.err e1)).beyond := by decide
/-- No error flag, and one at bit 5. -/
theorem witness_ReadyTestReadsOnlyItsBits :
    cfg0.wf = true ∧ cfg0.errMask = 0#8 ∧ { cfg0 with errMask := 0x20 }.wf = true ∧
      (0xFE : Byte) &&& (cfg0.busyMask ||| cfg0.errMask) = 0x00 &&& (cfg0.busyMask ||| cfg0.errMask) := by decide
theorem witness_ReadyStatusEndsThePollWithDone :
    (reading .program 1 (.ok [0xFE])).fsm = .pollWait ∧ (reading .program 1 (.ok [0xFE])).x = some (rdsrRequest cfg0) ∧
      (rdsrRequest cfg0).cmd = frameRdsr cfg0 ∧ (rdsrRequest cfg0).answerLength = 1 ∧
      (reading .program 1 (.ok [0xFE])).replies = .answer (.ok [0xFE]) :: [] ∧
      ready cfg0 .program 0xFE = true ∧ ready cfg0 .erase 0xFE = true := by decide
/-- Two reads left. -/
theorem witness_NotReadyStatusCountsDown :
    (reading .erase 2 (.ok [0x01])).fsm = .pollWait ∧ (rdsrRequest cfg0).answerLength = 1 ∧
      (reading .erase 2 (.ok [0x01])).replies = .answer (.ok [0x01]) :: [] ∧
      ready cfg0 .erase 0x01 = false ∧ (reading .erase 2 (.ok [0x01])).ctr - 1#32 ≠ 0#32 := by decide
/-- The last read, in each class. -/
theorem witness_ExhaustedPollRaisesTheTimeoutOfItsClass :
    (reading .program 1 (.ok [0x01])).fsm = .pollWait ∧ (rdsrRequest cfg0).answerLength = 1 ∧
      (reading .program 1 (.ok [0x01])).replies = .answer (.ok [0x01]) :: [] ∧
      ready cfg0 .program 0x01 = false ∧ ready cfg0 .erase 0x01 = false ∧
      (reading .program 1 (.ok [0x01])).ctr - 1#32 = 0#32 ∧ (reading .erase 1 (.ok [0x01])).pclass = .erase := by decide
theorem witness_TakingTheResultReturnsToIdle :
    (inState .resp).cfg.wf = true ∧ (inState .resp).fsm = .resp ∧
      ({ inState .resp with cmds := [eraseCmd 0] } : State).cmds = eraseCmd 0 :: [] := by decide
theorem witness_HostCommandFrame :
    (after (fun _ => true) (exec (.init 0 0) (inState .idle)) = some true) ∧
      (after (fun _ => true) (exec (.read 0 0) (inState .idle)) = some true) ∧
      (after (fun _ => true) (exec (.write 0 0) (inState .idle)) = some true) ∧
      (after (fun _ => true) (exec (.erase 0 0) (inState .idle)) = some true) := by decide
theorem witness_FrameIssueFrame :
    Instr.ident.level = .commandFrame ∧ State.reset.x = none ∧
      after (fun _ => true) (exec .ident State.reset) = some true ∧
      after (fun _ => true) (exec (.fread 0) (inState .rdNext)) = some true ∧
      after (fun _ => true) (exec (.prog 0) (inState .wrNext)) = some true ∧
      after (fun _ => true) (exec (.erase4k 0) (inState .erNext)) = some true ∧
      after (fun _ => true) (exec (.erase64k 0) (inState .erNext)) = some true ∧
      after (fun _ => true) (exec .rdsr (inState .pollIssue)) = some true := by decide
theorem witness_FrameCompletionFrame :
    (probing (.err e1)).x ≠ none ∧ after (fun _ => true) (exec .ident (probing (.err e1))) = some true ∧
      after (fun _ => true) (exec (.fread 0x000108) (lastChunk (.ok [8, 9]))) = some true ∧
      after (fun _ => true) (exec (.prog 0) (answering .wrWait (progRequest cfg0 0 1 [5]) (.ok []))) = some true ∧
      after (fun _ => true) (exec (.erase4k 0) (answering .erWait (erase4kRequest cfg0 0) (.ok []))) = some true ∧
      after (fun _ => true) (exec (.erase64k 0) (answering .erWait (erase64kRequest cfg0 0) (.ok []))) = some true ∧
      after (fun _ => true) (exec .rdsr (reading .program 1 (.ok [0]))) = some true := by decide
/-- With `witness_FrameCompletionFrame`: the requests' data lengths and the memories' form. -/
theorem witness_FrameCompletionStoresOnlyItsBytes :
    (lastChunk (.ok [8, 9])).chip.mem.wf = true ∧ (lastChunk (.ok [8, 9])).outBuf.wf = true ∧
      (freadRequest cfg0 0x000108 2).wdata.length = 0 ∧ (freadRequest cfg0 0x000108 2).dir = .rd ∧
      (freadRequest cfg0 0x000108 2).n = (lastChunk (.ok [8, 9])).chunk ∧
      (progRequest cfg0 0 1 [5]).wdata.length = (progRequest cfg0 0 1 [5]).n.toNat ∧
      (progRequest cfg0 0 1 [5]).dir = .wr ∧ (erase4kRequest cfg0 0).wdata.length = 0 ∧
      (rdsrRequest cfg0).wdata.length = 0 ∧ (reading .program 1 (.err e1)).chip.conduct = .refchip ∧
      ¬ (lastChunk (.ok [8, 9])).beyond ∧
      after (fun t => t.fsm != .resp) (exec .rdsr (reading .program 1 (.ok [0]))) = some true := by decide
theorem inv_idle : (inState .idle).Inv :=
  inv_small (by decide) populated_4k (by decide) rfl trivial rfl (by decide)
theorem witness_GeometryIsImmutableOnceProbed :
    (inState .idle).Inv ∧ (inState .idle).probed = true ∧ step (inState .idle) = .next (inState .idle) :=
  ⟨inv_idle, by decide, by rfl⟩
theorem witness_GeometryIsWrittenWholeAndOnlyByIdentify :
    after (fun t => t.g != Geometry.zero) (step (probing (.ok [0xEF, 0x70, 0x20]))) = some true ∧
      after (fun t => t.g != Geometry.zero)
        (step { State.reset with fsm := .probeWait, x := some (identRequest cfg0) }) = some true := by decide
theorem witness_ConfigurationNeverChanges : step (inState .resp) = .next (inState .resp).takeResult := by rfl
theorem witness_SequencerFollowsTheTransitionTable :
    after (fun t => t.fsm) (step (inState .resp)) = some .idle := by decide
theorem witness_OneTransferInFlight :
    after (fun t => t.trace.length) (step (inState .pollIssue)) = some 1 ∧
      after (fun t => t.trace.length) (step (probing (.err e1))) = some 0 := by decide
theorem witness_OnlyStatusReadsUntilThePollEnds :
    after (fun t => t.fsm) (step (answering .wrWait (progRequest cfg0 0 1 [5]) (.ok []))) = some .pollIssue ∧
      after (fun t => t.fsm) (step (answering .erWait (erase4kRequest cfg0 0) (.ok []))) = some .pollIssue ∧
      after (fun t => t.fsm) (step (inState .pollIssue)) = some .pollWait ∧
      after (fun t => t.fsm) (step (reading .program 1 (.ok [0]))) = some .wrNext ∧
      (reading .program 1 (.ok [0])).x = some (rdsrRequest cfg0) ∧
      after (fun t => t.fsm) (step { reading .erase 1 (.ok [0]) with replies := [] }) = some .erNext ∧
      after (fun t => t.fsm) (step { reading .erase 1 (.ok [0]) with replies := [.chip] }) = some .erNext := by decide
theorem witness_CommandPortIsIgnoredOutsideIdle : (inState .rdWait).fsm ≠ .idle := by decide
theorem witness_ReadIgnoresTheGeometry :
    (inState .rdNext).fsm = .rdNext ∧ (inState .rdWait).fsm = .rdWait := by decide
theorem witness_SilentTransportHangsTheCommand :
    ({ inState .pollWait with
        op := .write, ctr := 1, x := some (rdsrRequest cfg0), replies := [.silent], rem := 1, chunk := 1
        inBuf := ⟨1, []⟩ } : State).Inv ∧ Fsm.pollWait.waits = true :=
  ⟨inv_small (by decide) populated_4k (by decide) rfl
    ⟨⟨by decide, ⟨rfl, by decide, by decide, by decide⟩, by decide, by decide, by decide, by decide⟩, rfl⟩ rfl
    (by decide), rfl⟩
/-- CFG0, and an instance with the other identify framing. -/
theorem witness_DecodeOfEncodeIsTheInstruction :
    cfg0.wf = true ∧ { cfg0 with idLen := 4, mfrIndex := 1, capIndex := 3, dummyValue := 0xA5 }.wf = true := by decide
theorem witness_EncodeOfDecodeIsTheCode :
    decode cfg0 (.host 0x301000000020000) = .ok (.erase 0x010000 0x20000) ∧
      decode cfg0 (.frame [0x0B, 0xFF, 0xFF, 0xFF, 0x00]) = .ok (.fread 0xFFFFFF) := by decide
theorem witness_StepKeepsTheInvariant :
    ({ inState .resp with op := .read } : State).Inv ∧
      step { inState .resp with op := .read } = .next ({ inState .resp with op := .read } : State).takeResult :=
  ⟨inv_small (by decide) populated_4k (by decide) rfl (by show Op.read ≠ Op.init; decide) rfl (by decide), by rfl⟩
theorem witness_NoStopWhileDutiesAreKept :
    State.reset.Inv ∧ State.reset.hostOk ∧ State.reset.transportOk :=
  ⟨inv_small (by decide) (.inl rfl) (by decide) rfl trivial rfl (by decide), by simp [State.hostOk, State.reset],
    by simp [State.transportOk, State.reset]⟩
/-- INIT in flight, unprobed, with a WRITE waiting at the port: no duty of the host is asked yet (R233). -/
theorem witness_NoStopWhileDutiesAreKept_in_flight :
    ({ State.reset with
        fsm := .probeWait, x := some (identRequest cfg0), cmds := [⟨hostWord 0b10 0 1, none, none⟩] } : State).hostOk ∧
      ({ State.reset with fsm := .probeWait, x := some (identRequest cfg0) } : State).transportOk := by
  constructor
  · intro c rest h
    cases h
  · intro q _
    rfl

/-- A poll entered with the program budget. -/
def polling (bs : List Byte) : State :=
  { inState .pollIssue with op := .write, ctr := 4, replies := bs.map fun b => .answer (.ok [b]) }

/-- V-POLL 9 and V-POLL 3. -/
theorem witness_PollMakesExactlyBudgetManyReads :
    (polling []).cfg.wf = true ∧ (polling []).fsm = .pollIssue ∧ (polling []).x = none ∧
      (∀ b ∈ ([0xFF, 0x03, 0x01, 0x81] : List Byte), ready cfg0 .program b = false) ∧
      [0xFF, 0x03, 0x01, 0x81].length = (polling [0xFF, 0x03, 0x01, 0x81]).ctr.toNat ∧
      [0x01, 0x01, 0x01].length < (polling [0x01, 0x01, 0x01, 0x00]).ctr.toNat ∧ ready cfg0 .program 0x00 = true := by
  decide
/-- A READ of three bytes from the last address, two at a time: the first chunk by a written answer, the second by the
chip. -/
def readOfThree : State :=
  { inState .rdNext with
    cfg := { cfg0 with maxXfer := 2 }, op := .read, cur := 0xFFFFFF, rem := 3, outBuf := ⟨3, []⟩
    replies := [.answer (.ok [7, 8]), .chip], chip := ⟨[(1, 9)], 0, [], [], .refchip⟩ }

theorem witness_ReadReassemblesItsChunks :
    readOfThree.cfg.wf = true ∧ readOfThree.fsm = .rdNext ∧ readOfThree.x = none ∧
      readOfThree.idx.toNat + readOfThree.rem.toNat < 2 ^ 32 ∧
      readOfThree.idx.toNat + readOfThree.rem.toNat ≤ readOfThree.outBuf.size ∧ readOfThree.outBuf.wf = true ∧
      [[7, 8], [9]].length = (readOfThree.rem.toNat + readOfThree.cfg.maxXfer.toNat - 1) / readOfThree.cfg.maxXfer.toNat ∧
      (∀ k, k < 2 → ((([[7, 8], [9]] : List (List Byte)).getD k []).length =
        min readOfThree.cfg.maxXfer.toNat (readOfThree.rem.toNat - k * readOfThree.cfg.maxXfer.toNat))) ∧
      (readOfThree.replies[0]? = some (.answer (.ok [7, 8])) ∧ readOfThree.replies[1]? = some .chip ∧
        readOfThree.chipFixed ∧
        ∀ i, i < 1 → ([9] : List Byte).getD i 0 =
          readOfThree.chip.mem.read ((readOfThree.cur.toNat + 1 * readOfThree.cfg.maxXfer.toNat + i) % 2 ^ 24)) := by
  decide
/-- The last two bytes of FLASH. -/
theorem witness_WriteProgramsExactlyItsRegion :
    ({ writing with cur := 0xFFFFFE } : State).Inv ∧ writing.fsm = .wrNext ∧
      (∀ r ∈ writing.replies, r = .chip) ∧ writing.chipFixed ∧
      (∀ k ∈ writing.chip.ks, k < writing.cfg.progBudget.toNat) ∧ (0xFFFFFE : Addr).toNat + writing.rem.toNat ≤ 2 ^ 24 :=
  ⟨inv_small (by decide) populated_4k (by decide) rfl ⟨rfl, by decide, by decide, by decide⟩ rfl (by decide),
    rfl, by decide, by decide, by decide, by decide⟩

/-- An ERASE of the last two sectors of FLASH. -/
def erasing (f : Fsm) : State := { inState f with op := .erase, cur := 0xFFE000, rem := 0x2000 }

theorem witness_EraseErasesExactlyItsSectors :
    (erasing .erNext).Inv ∧ (erasing .erNext).fsm = .erNext ∧
      (∀ r ∈ (erasing .erNext).replies, r = .chip) ∧ (erasing .erNext).chipFixed ∧
      (erasing .erNext).cfg.errExpect = 0#8 ∧
      (∀ k ∈ (erasing .erNext).chip.ks, k < (erasing .erNext).cfg.eraseBudget.toNat) ∧
      (erasing .erNext).cur.toNat + (erasing .erNext).rem.toNat ≤ 2 ^ 24 :=
  ⟨inv_small (by decide) populated_4k (by decide) rfl ⟨rfl, by decide, by decide⟩ rfl (by decide),
    rfl, by decide, by decide, rfl, by decide, by decide⟩

/-- The clause of `everyTransferCompletes` for one state. -/
def completesNext (u : State) : Bool :=
  match u.x, u.replies with
  | none, _ => true
  | some q, .answer (.ok d) :: _ => d.length == q.answerLength
  | some _, .answer (.err e) :: _ => u.cfg.hasTerr e
  | some _, .silent :: _ => false
  | some _, .chip :: _ => u.chip.idResp.length == u.cfg.idLen
  | some _, [] => u.chip.idResp.length == u.cfg.idLen
theorem completesNext_sound {u : State} (h : completesNext u = true) :
    u.transportOk ∧ (u.x ≠ none → ∀ rest, u.replies ≠ .silent :: rest) := by
  constructor
  · intro q hq
    unfold completesNext at h
    rw [hq] at h
    rcases hr : u.replies with _ | ⟨⟨_ | _⟩ | _ | _, r⟩ <;> rw [hr] at h <;> first | trivial | simpa using h
  · intro hx rest hr
    obtain ⟨q, hq⟩ := Option.ne_none_iff_exists'.mp hx
    simp [completesNext, hq, hr] at h
/-- A command that is over after `n` steps, each transfer on the way completing. -/
def endsIn : Nat → State → Bool
  | 0, s => s.fsm == .idle && s.cmds == [] && s.cfg.wf && s.x == none
  | n + 1, s =>
    completesNext s &&
      match step s with
      | .next t => endsIn n t
      | .fault _ => false
      | .refused _ => false
theorem idle_stays {s : State} (h : endsIn 0 s = true) (n : Nat) : run n s = .next s := by
  have h' : ((s.fsm = .idle ∧ s.cmds = []) ∧ s.cfg.wf = true) ∧ s.x = none := by simpa [endsIn] using h
  have hs : step s = .next s := by
    rw [step_eq h'.1.2]
    simp [sequencerMove, idleMove, h'.1.1.1, h'.1.1.2, Move.outcome]
  induction n with
  | zero => rfl
  | succ n ih => rw [run_succ hs, ih]
theorem completes_of_endsIn {s : State} {n : Nat} (h : endsIn n s = true) : s.everyTransferCompletes := by
  have key : ∀ n (s : State), endsIn n s = true → ∀ k u, run k s = .next u → completesNext u = true := by
    intro n
    induction n with
    | zero =>
      intro s h k u hu
      rw [idle_stays h] at hu
      cases hu
      have : s.x = none := by simp [endsIn] at h; exact h.2
      simp [completesNext, this]
    | succ n ih =>
      intro s h k u hu
      simp only [endsIn, Bool.and_eq_true] at h
      cases k with
      | zero => cases hu; exact h.1
      | succ k =>
        rcases hs : step s with t | _ | _
        · rw [hs] at h
          rw [run_succ hs] at hu
          exact ih t h.2 k u hu
        all_goals rw [hs] at h; simp at h
  exact fun k u hu _ => completesNext_sound (key n s h k u hu)
/-- READ of one byte, by a written answer. -/
def readOfOne : State :=
  { inState .rdNext with op := .read, rem := 1, outBuf := ⟨1, []⟩, replies := [.answer (.ok [7])] }
/-- WRITE of one byte, against the chip. -/
def writeOfOne : State := { inState .wrNext with op := .write, rem := 1, inBuf := bufferOf [5] }
/-- ERASE of one sector, against the chip. -/
def eraseOfOne : State := { inState .erCheck with op := .erase, cur := 0x001000, rem := 0x1000 }
/-- One transfer of each kind: INIT, READ of a byte by a written answer, WRITE of a byte and ERASE of a sector
against the chip. -/
theorem witness_EveryCommandEnds :
    (probing (.ok [0xEF, 0x40, 0x15])).Inv ∧ (probing (.ok [0xEF, 0x40, 0x15])).everyTransferCompletes ∧
      readOfOne.Inv ∧ readOfOne.everyTransferCompletes ∧ readOfOne.fsm = .rdNext ∧
      writeOfOne.Inv ∧ writeOfOne.everyTransferCompletes ∧ writeOfOne.fsm = .wrNext ∧
      eraseOfOne.Inv ∧ eraseOfOne.everyTransferCompletes ∧ eraseOfOne.fsm = .erCheck :=
  ⟨inv_small (by decide) (.inl rfl) (by decide) rfl ⟨rfl, by decide, rfl⟩ rfl (by decide),
    completes_of_endsIn (n := 2) (by decide),
    inv_small (by decide) populated_4k (by decide) rfl ⟨rfl, by decide, by decide⟩ rfl (by decide),
    completes_of_endsIn (n := 5) (by decide), rfl,
    inv_small (by decide) populated_4k (by decide) rfl ⟨rfl, by decide, by decide, by decide⟩ rfl (by decide),
    completes_of_endsIn (n := 7) (by decide), rfl,
    inv_small (by decide) populated_4k (by decide) rfl ⟨rfl, by decide⟩ rfl (by decide),
    completes_of_endsIn (n := 8) (by decide), rfl⟩
/-- Four bytes at the end of a page. -/
theorem witness_RefchipProgramsInsideThePage :
    ({ inState .wrWait with x := some (progRequest cfg0 0x0010FE 4 [0xA1, 0xB2, 0xC3, 0xD4]) } : State).fsm = .wrWait ∧
      (progRequest cfg0 0x0010FE 4 [0xA1, 0xB2, 0xC3, 0xD4]).cmd = frameProg cfg0 0x0010FE ∧
      (progRequest cfg0 0x0010FE 4 [0xA1, 0xB2, 0xC3, 0xD4]).dir = .wr ∧ (inState .wrWait).asksChip [] ∧
      (inState .wrWait).chipFixed ∧
      (inState .wrWait).chip.mem.wf = true ∧
      (progRequest cfg0 0x0010FE 4 [0xA1, 0xB2, 0xC3, 0xD4]).wdata.length ≤ 256 := by decide
theorem witness_RefchipErasesTheSector :
    ({ inState .erWait with x := some (erase4kRequest cfg0 0x001000) } : State).fsm = .erWait ∧
      (erase4kRequest cfg0 0x001000).dir = .none ∧ (inState .erWait).asksChip [] ∧
      (inState .erWait).chipFixed ∧
      (inState .erWait).chip.mem.wf = true ∧ (erase4kRequest cfg0 0x001000).cmd = frameErase4K cfg0 0x001000 ∧
      (erase64kRequest cfg0 0x010000).cmd = frameErase64K cfg0 0x010000 := by decide

end Sys2Proof.Tests
end

section
/-! PROOF. Facts that the proofs about the whole machine share: the constraints of a configuration, the frames
read back by the decoder, and the requests of the six frames as requests of FCF (R86). -/

namespace Sys2Proof

variable {c : Config}

/-! The constraints of R8. -/

theorem distinct_iff_nodup (bs : List Byte) : distinct bs = true ↔ bs.Nodup := by
  induction bs with
  | nil => simp [distinct]
  | cons b bs ih =>
    simp only [distinct, Bool.and_eq_true, List.all_eq_true, bne_iff_ne, List.nodup_cons, ih]
    exact and_congr_left fun _ => ⟨fun h hb => h b hb rfl, fun h a ha he => h (he ▸ ha)⟩

theorem Config.constraint_of_wf (h : c.wf = true) {b : Bool} (hb : b ∈ c.constraints) : b = true :=
  List.all_eq_true.mp h b hb

theorem Config.opcodes_nodup (h : c.wf = true) : c.opcodes.Nodup :=
  (distinct_iff_nodup _).mp (constraint_of_wf h (by simp [Config.constraints]))

theorem Config.idLen_eq (h : c.wf = true) : c.idLen = 3 ∨ c.idLen = 4 := by
  have : (c.idLen == 3 || c.idLen == 4) = true := constraint_of_wf h (by simp [Config.constraints])
  simpa using this

theorem Config.maxXfer_pos (h : c.wf = true) : 1 ≤ c.maxXfer.toNat :=
  of_decide_eq_true (constraint_of_wf h (b := decide (0 < c.maxXfer.toNat)) (by simp [Config.constraints]))

theorem Config.progBudget_pos (h : c.wf = true) : 1 ≤ c.progBudget.toNat :=
  of_decide_eq_true (constraint_of_wf h (by simp [Config.constraints]))

theorem Config.progBudget_lt_eraseBudget (h : c.wf = true) : c.progBudget.toNat < c.eraseBudget.toNat :=
  of_decide_eq_true (constraint_of_wf h (by simp [Config.constraints]))

/-! The decoder on FCF's own frames. Of two opcodes with frames of one length the later row of R79 is reached
because the opcodes are distinct (R8). -/

@[simp] theorem decodeFrame_frameIdent : decodeFrame c (frameIdent c) = .ok .ident := by
  simp [frameIdent, enc1, decodeFrame]

@[simp] theorem decodeFrame_frameRead (a : Addr) : decodeFrame c (frameRead c a) = .ok (.fread a) := by
  simp [frameRead, enc5, decodeFrame]

@[simp] theorem decodeFrame_frameProg (a : Addr) : decodeFrame c (frameProg c a) = .ok (.prog a) := by
  simp [frameProg, enc4, decodeFrame]

theorem decodeFrame_frameErase4K (h : c.wf = true) (a : Addr) :
    decodeFrame c (frameErase4K c a) = .ok (.erase4k a) := by
  have hne : c.opcErase4K ≠ c.opcProg := by
    have := Config.opcodes_nodup h
    grind [Config.opcodes]
  simp [frameErase4K, enc4, decodeFrame, hne]

theorem decodeFrame_frameErase64K (h : c.wf = true) (a : Addr) :
    decodeFrame c (frameErase64K c a) = .ok (.erase64k a) := by
  have hne : c.opcErase64K ≠ c.opcProg ∧ c.opcErase64K ≠ c.opcErase4K := by
    have := Config.opcodes_nodup h
    grind [Config.opcodes]
  simp [frameErase64K, enc4, decodeFrame, hne]

theorem decodeFrame_frameRdsr (h : c.wf = true) : decodeFrame c (frameRdsr c) = .ok .rdsr := by
  have hne : c.opcRdsr ≠ c.opcIdent := by
    have := Config.opcodes_nodup h
    grind [Config.opcodes]
  simp [frameRdsr, enc1, decodeFrame, hne]

end Sys2Proof

namespace Sys2Proof.Machine

variable {c : Config}

/-! The requests of the six frames match their rows of R79, with the bounds of R86. -/

theorem identRequest_fromFcf (h : c.wf = true) : (identRequest c).fromFcf c = true := by
  rcases Config.idLen_eq h with hl | hl <;> simp [Xfer.fromFcf, identRequest, hl]

theorem freadRequest_fromFcf (a : Addr) {n : Word} (h1 : 1 ≤ n.toNat) (hn : n.toNat ≤ c.maxXfer.toNat) :
    (freadRequest c a n).fromFcf c = true := by
  simp [Xfer.fromFcf, freadRequest, h1, hn]

theorem progRequest_fromFcf {a : Addr} {n : Word} {d : List Byte} (h1 : 1 ≤ n.toNat)
    (hn : n.toNat ≤ c.maxXfer.toNat) (hd : d.length = n.toNat) (hp : a.toNat % 256 + n.toNat ≤ 256) :
    (progRequest c a n d).fromFcf c = true := by
  simp [Xfer.fromFcf, progRequest, h1, hn, hd, hp]

theorem erase4kRequest_fromFcf (h : c.wf = true) {a : Addr} (ha : a.toNat % 4096 = 0) :
    (erase4kRequest c a).fromFcf c = true := by
  simp [Xfer.fromFcf, erase4kRequest, decodeFrame_frameErase4K h, ha]

theorem erase64kRequest_fromFcf (h : c.wf = true) {a : Addr} (ha : a.toNat % 65536 = 0) :
    (erase64kRequest c a).fromFcf c = true := by
  simp [Xfer.fromFcf, erase64kRequest, decodeFrame_frameErase64K h, ha]

theorem rdsrRequest_fromFcf (h : c.wf = true) : (rdsrRequest c).fromFcf c = true := by
  simp [Xfer.fromFcf, rdsrRequest, decodeFrame_frameRdsr h]

end Sys2Proof.Machine
end

section
/-! PROOF. What a probed geometry holds, the chunk of each loop and the advance over it: the arithmetic of the
working registers. -/

namespace Sys2Proof.Machine

variable {s : State}

/-! The geometry (R16). -/

theorem Geometry.populated_of_pageSize_ne {c : Config} {g : Geometry} (h : g.zeroOrPopulated c)
    (hp : g.pageSize ≠ 0#32) : g.pageSize = 256#32 ∧ (g.sectorSize = 65536#32 ∨ g.sectorSize = 4096#32) := by
  rcases h with rfl | ⟨-, hpage, hlarge, hsmall, -⟩
  · exact absurd rfl hp
  · exact ⟨hpage, (em (g.capacityCode = 0x20)).imp hlarge hsmall⟩

theorem State.probed_iff : s.probed = true ↔ s.g.pageSize ≠ 0#32 := bne_iff_ne

theorem State.pageSize_of_probed (hg : s.g.zeroOrPopulated s.cfg) (hp : s.probed = true) : s.g.pageSize = 256#32 :=
  (Geometry.populated_of_pageSize_ne hg (State.probed_iff.mp hp)).1

theorem State.sectorSize_of_probed (hg : s.g.zeroOrPopulated s.cfg) (hp : s.probed = true) :
    s.g.sectorSize = 65536#32 ∨ s.g.sectorSize = 4096#32 :=
  (Geometry.populated_of_pageSize_ne hg (State.probed_iff.mp hp)).2

theorem geometryOf_populated {c : Config} {r : List Byte} (h : manufacturerByte c r = c.mfrExpected) :
    (geometryOf c r).zeroOrPopulated c :=
  .inr ⟨h, rfl, fun hc => if_pos hc, fun hc => if_neg hc, rfl⟩

/-- A sector lies in FLASH, whatever address of it is given: both sector sizes divide `2^24`. -/
theorem sector_fits {n : Nat} (hn : n = 65536 ∨ n = 4096) (a : Addr) : a.toNat - a.toNat % n + n ≤ 2 ^ 24 := by
  have ha := a.isLt
  rcases hn with rfl | rfl <;> omega

theorem misaligned_eq_false_iff {sector : Word} {offset : Addr} {length : Word} :
    misaligned sector offset length = false ↔
      offset.toNat % sector.toNat = 0 ∧ length.toNat % sector.toNat = 0 := by
  simp [misaligned]

/-! The chunks (R142, R162). -/

theorem State.readChunk_toNat : s.readChunk.toNat = min s.rem.toNat s.cfg.maxXfer.toNat := by
  have := s.rem.isLt
  exact Nat.mod_eq_of_lt (by simp only [State.maxSingleTransfer]; omega)

theorem State.writeChunk_toNat (hp : s.g.pageSize = 256#32) :
    s.writeChunk.toNat = min s.rem.toNat (min (256 - s.cur.toNat % 256) s.cfg.maxXfer.toNat) := by
  have := s.rem.isLt
  simp only [State.writeChunk, State.byteInPage, State.maxSingleTransfer, hp, BitVec.toNat_ofNat,
    Nat.reducePow, Nat.reduceMod]
  omega

theorem one_le_toNat_of_ne_zero {n : Word} (h : n ≠ 0#32) : 1 ≤ n.toNat :=
  Nat.one_le_iff_ne_zero.mpr fun h0 => h (BitVec.eq_of_toNat_eq h0)

theorem State.readChunk_bounds (hc : s.cfg.wf = true) (hr : s.rem ≠ 0#32) :
    1 ≤ s.readChunk.toNat ∧ s.readChunk.toNat ≤ s.rem.toNat ∧ s.readChunk.toNat ≤ s.cfg.maxXfer.toNat := by
  have := Config.maxXfer_pos hc
  have := one_le_toNat_of_ne_zero hr
  rw [State.readChunk_toNat]
  omega

/-- A WRITE's chunk never crosses a page (R166 (b)). -/
theorem State.writeChunkOk_of_writeChunk (hc : s.cfg.wf = true) (hp : s.g.pageSize = 256#32) (hr : s.rem ≠ 0#32) :
    State.writeChunkOk { s with chunk := s.writeChunk } := by
  have := Config.maxXfer_pos hc
  have := one_le_toNat_of_ne_zero hr
  have := State.writeChunk_toNat hp
  simp only [State.writeChunkOk]
  omega

/-! Acceptance (R141, R161). -/

theorem State.reading_accept {o : Addr} {l : Word} (hb : l.toNat ≤ s.outBuf.size) (next : Fsm) :
    (s.accept .read o l next).reading := by
  have := l.isLt
  refine ⟨rfl, ?_, ?_⟩ <;> simp <;> omega

theorem State.writing_accept {o : Addr} {l : Word} (hp : s.probed = true) (hb : l.toNat ≤ s.inBuf.size)
    (next : Fsm) : (s.accept .write o l next).writing := by
  have := l.isLt
  refine ⟨rfl, hp, ?_, ?_⟩ <;> simp <;> omega

theorem Buffer.read_length {b : Buffer} {i n : Nat} {d : List Byte} (h : b.read i n = some d) : d.length = n := by
  unfold Buffer.read at h
  split at h <;> cases h
  exact Memory.readBytes_length _ _ _

/-! The advance (R143, R165, R186). -/

/-- An advance over a chunk moves bytes from what is left to what is done. -/
theorem advance_span {i r n : Word} (hn : n.toNat ≤ r.toNat) (h : i.toNat + r.toNat < 2 ^ 32) :
    (i + n).toNat + (r - n).toNat = i.toNat + r.toNat := by
  rw [BitVec.toNat_add, BitVec.toNat_sub]
  omega

theorem State.reading_advance (h : s.reading) (hn : s.chunk.toNat ≤ s.rem.toNat) (next : Fsm) :
    (s.advance next).reading := by
  obtain ⟨hop, hlt, hbuf⟩ := h
  have hspan := advance_span hn hlt
  exact ⟨hop, hspan.trans_lt hlt, hspan.trans_le hbuf⟩

theorem State.writing_advance (h : s.writing) (hn : s.chunk.toNat ≤ s.rem.toNat) (next : Fsm) :
    (s.advance next).writing := by
  obtain ⟨hop, hp, hlt, hbuf⟩ := h
  have hspan := advance_span hn hlt
  exact ⟨hop, hp, hspan.trans_lt hlt, hspan.trans_le hbuf⟩

/-- An ERASE stays on whole sectors when it advances over one, also past `2^24`. -/
theorem State.erasing_advanceErase (hg : s.g.zeroOrPopulated s.cfg) (h : s.erasing) (hc : s.eraseChunkOk)
    (next : Fsm) : (s.advanceErase next).erasing := by
  obtain ⟨hop, hp, hm⟩ := h
  obtain ⟨hr, hchunk⟩ := hc
  refine ⟨hop, hp, misaligned_eq_false_iff.mpr ?_⟩
  obtain ⟨hcur, hrem⟩ := misaligned_eq_false_iff.mp hm
  have hpos := one_le_toNat_of_ne_zero hr
  have hlt := s.rem.isLt
  simp only [State.advanceErase_cur, State.advanceErase_rem, State.advanceErase_g, advanceAddr, hchunk,
    BitVec.toNat_ofNat, BitVec.toNat_sub]
  rcases State.sectorSize_of_probed hg hp with hs | hs <;>
    simp only [hs, BitVec.toNat_ofNat, Nat.reducePow, Nat.reduceMod] at hcur hrem ⊢ <;> omega

/-! The poll (R201). -/

theorem State.polling.program (h : s.polling) (hp : s.pclass = .program) : s.writing ∧ s.writeChunkOk := by
  obtain ⟨-, h⟩ := h
  rwa [hp] at h

theorem State.polling.erase (h : s.polling) (hp : s.pclass = .erase) : s.erasing ∧ s.eraseChunkOk := by
  obtain ⟨-, h⟩ := h
  rwa [hp] at h

/-- The sector an erase poll is about lies in FLASH. -/
theorem State.polling.sector_fits (h : s.polling) (hg : s.g.zeroOrPopulated s.cfg) (hp : s.pclass = .erase) :
    s.cur.toNat - s.cur.toNat % s.chunk.toNat + s.chunk.toNat ≤ 2 ^ 24 := by
  obtain ⟨⟨-, hprobed, -⟩, -, hchunk⟩ := h.erase hp
  refine Machine.sector_fits ?_ s.cur
  rw [hchunk]
  exact (State.sectorSize_of_probed hg hprobed).imp (congrArg BitVec.toNat) (congrArg BitVec.toNat)

end Sys2Proof.Machine
end

section
/-! PROOF. Every step keeps the invariant of the machine. The clauses that speak of no register of the sequencer
(`State.Standing`) are kept operation by operation; what is left of `State.Inv` at each transition of R23 is the
slot and the clause of the state that is entered. -/

namespace Sys2Proof.Machine

variable {s t : State}

/-! The standing clauses. -/

/-- REFCHIP's part of `State.memoryOk`. -/
def RefChip.memoryOk (c : RefChip) : Prop := c.mem.wf = true ∧ c.mem.below (2 ^ 24) = true

/-- The clauses of `State.Inv` that speak neither of `fsm` nor of `X`, nor of a working register. -/
structure State.Standing (s : State) : Prop where
  config : s.cfg.wf = true
  geometry : s.g.zeroOrPopulated s.cfg
  requests : ∀ q ∈ s.trace, q.fromFcf s.cfg = true
  memory : s.memoryOk
  errorValues : ∀ r ∈ s.res :: s.results, r.inTerr s.cfg = true

theorem State.Inv.standing (h : s.Inv) : s.Standing := { h with }

theorem State.Inv.slot_empty (h : s.Inv) (hw : s.fsm.waits = false) : s.x = none := by
  by_contra hx
  simp [h.slot.mp hx] at hw

/-- `s.sequenced` in a given state of the sequencer: with a constructor for `f` it unfolds to that state's
clause. -/
theorem State.sequenced.clause {f : Fsm} (h : s.sequenced) (hf : s.fsm = f) :
    State.sequenced { s with fsm := f } := by
  subst hf
  exact h

theorem State.Standing.inv_of_slot_empty (h : s.Standing) (hx : s.x = none) (hw : s.fsm.waits = false)
    (hs : s.sequenced) : s.Inv :=
  { h with slot := by simp [hx, hw], sequence := hs }

theorem State.Standing.inv_issue (h : s.Standing) {wait : Fsm} {q : Xfer} (hw : wait.waits = true)
    (hq : q.fromFcf s.cfg = true) (hs : (s.issue wait q).sequenced) : (s.issue wait q).Inv :=
  { h with
    slot := by simp [hw]
    requests := List.forall_mem_append.mpr ⟨h.requests, List.forall_mem_singleton.mpr hq⟩
    sequence := hs }

theorem State.Standing.inv_raise (h : s.Standing) (hx : s.x = none) {e : Error}
    (he : (Result.error e).inTerr s.cfg = true) (hr : s.op.returns (.error e)) : (s.raise e).Inv :=
  State.Standing.inv_of_slot_empty
    { h with errorValues := List.forall_mem_cons.mpr ⟨he, (List.forall_mem_cons.mp h.errorValues).2⟩ } hx rfl hr

theorem State.Standing.inv_respond (h : s.Standing) (hx : s.x = none) {info : Option Geometry}
    (hr : s.op.returns (.ok info)) : (s.respond info).Inv :=
  State.Standing.inv_of_slot_empty
    { h with errorValues := List.forall_mem_cons.mpr ⟨rfl, (List.forall_mem_cons.mp h.errorValues).2⟩ } hx rfl hr

theorem State.Standing.takeResult (h : s.Standing) : s.takeResult.Standing :=
  { h with
    errorValues := by
      have ⟨hres, hresults⟩ := List.forall_mem_cons.mp h.errorValues
      exact List.forall_mem_cons.mpr
        ⟨hres, List.forall_mem_append.mpr ⟨hresults, List.forall_mem_singleton.mpr hres⟩⟩ }

theorem Buffer.getD_wf {o : Option Buffer} {b : Buffer} (ho : ∀ b', o = some b' → b'.wf = true)
    (hb : b.wf = true) : (o.getD b).wf = true := by
  cases o with
  | none => exact hb
  | some b' => exact ho b' rfl

theorem State.Standing.present (h : s.Standing) {c : HostCmd} {rest : List HostCmd} (hc : s.cmds = c :: rest) :
    (s.present c rest).Standing := by
  obtain ⟨hmem, hbelow, hin, hout, hcmds⟩ := h.memory
  rw [hc] at hcmds
  obtain ⟨⟨hcin, hcout⟩, hrest⟩ := List.forall_mem_cons.mp hcmds
  exact { h with memory := ⟨hmem, hbelow, Buffer.getD_wf hcin hin, Buffer.getD_wf hcout hout, hrest⟩ }

theorem State.Standing.withChip (h : s.Standing) {c : RefChip} (hc : c.memoryOk) (n : Nat) :
    (s.withChip c n).Standing := by
  obtain ⟨hmem, hbelow⟩ := hc
  obtain ⟨-, -, hhost⟩ := h.memory
  exact { h with memory := ⟨hmem, hbelow, hhost⟩ }

theorem State.Standing.chip_memoryOk (h : s.Standing) : s.chip.memoryOk := by
  obtain ⟨hmem, hbelow, -⟩ := h.memory
  exact ⟨hmem, hbelow⟩

theorem State.Standing.storeOut (h : s.Standing) {i : Nat} {d : List Byte} (hd : i + d.length ≤ s.outBuf.size) :
    State.Standing { s with outBuf := { s.outBuf with cells := s.outBuf.cells.writeBytes i d } } := by
  obtain ⟨hmem, hbelow, hin, hout, hcmds⟩ := h.memory
  exact { h with memory := ⟨hmem, hbelow, hin, Buffer.write_wf hout (Buffer.write_eq_some hd), hcmds⟩ }

theorem State.Standing.draw (h : s.Standing) (n : Nat) : State.Standing { s with free := n } := { h with }

/-! The chip's side of a transfer. -/

/-- `u` is `s` with its transfer over: FCF's registers are as before but for the empty slot, and the standing
clauses hold. -/
def State.LandsStanding (s u : State) : Prop :=
  ∃ rest c n, u = (s.landed rest).withChip c n ∧ u.Standing

section
variable {q : Xfer} {does : RefChip → Answer × RefChip} {unknown : State → State} {a : Answer} {u : State}

theorem Lands.standing (hl : Lands s q does unknown a u) (h : s.Standing)
    (hu : ∀ v, ∃ c n, unknown v = v.withChip c n) (hdoes : ∀ c, c.memoryOk → (does c).2.memoryOk)
    (hunknown : ∀ v : State, v.chip.memoryOk → (unknown v).chip.memoryOk) :
    s.LandsStanding u := by
  obtain ⟨rest, c, n, rfl, -⟩ := hl.eq_withChip hu
  have hc := hl.chip_keeps (P := RefChip.memoryOk) h.chip_memoryOk hdoes fun v _ _ => hunknown v
  have hlanded : (s.landed rest).Standing := { h with }
  exact ⟨rest, c, n, rfl, hlanded.withChip hc n⟩

/-- A transfer with no part of the chip's (R47). -/
theorem Lands.standing_of_reading (hl : Lands s q does id a u) (h : s.Standing) (hdoes : ∀ c, (does c).2 = c) :
    s.LandsStanding u :=
  hl.standing h id_eq_withChip (fun c hc => by rwa [hdoes c]) fun _ hv => hv

/-- A transfer of an erase frame, whose sector lies in FLASH. -/
theorem Lands.standing_of_erase {sector : Nat} (hn : sector = 65536 ∨ sector = 4096) {addr : Addr}
    (hl : Lands s q (RefChip.erase sector addr) (fun s => s.eraseUnknown addr sector) a u) (h : s.Standing) :
    s.LandsStanding u :=
  hl.standing h (eraseUnknown_eq addr sector)
    (fun _ hc => ⟨RefChip.erase_wf hc.1 addr sector, RefChip.erase_below hc.2 addr sector⟩)
    fun _ hv => ⟨State.eraseUnknown_wf hv.1 addr sector, State.eraseUnknown_below hv.2 addr (sector_fits hn addr)⟩

/-- A transfer of a program frame. -/
theorem Lands.standing_of_prog {addr : Addr} {d : List Byte} {n : Nat}
    (hl : Lands s q (RefChip.prog addr d) (fun s => s.progUnknown addr n) a u) (h : s.Standing) :
    s.LandsStanding u :=
  hl.standing h (progUnknown_eq addr n)
    (fun _ hc => ⟨progBytes_wf hc.1 addr.toNat 0 d, below_progBytes hc.2 addr.isLt 0 d⟩)
    fun _ hv => ⟨State.progUnknown_wf hv.1 addr n, State.progUnknown_below hv.2 addr n⟩

theorem RefChip.status_memoryOk {m : Byte} {c : RefChip} (hc : c.memoryOk) : (c.status m).2.memoryOk := by
  unfold RefChip.status
  split <;> exact hc

/-- A status read. -/
theorem Lands.standing_of_status {m : Byte} (hl : Lands s q (RefChip.status m) State.busyUnknown a u)
    (h : s.Standing) : s.LandsStanding u :=
  hl.standing h busyUnknown_eq (fun _ => RefChip.status_memoryOk) fun _ hv => hv

end

/-- A poll that fails leaves the standing clauses: the cells it makes unknown lie in FLASH. -/
theorem State.Standing.inFlightUnknown (h : s.Standing)
    (hn : s.pclass = .erase → s.cur.toNat - s.cur.toNat % s.chunk.toNat + s.chunk.toNat ≤ 2 ^ 24) :
    s.inFlightUnknown.Standing := by
  obtain ⟨hwf, hbelow⟩ := h.chip_memoryOk
  rw [s.inFlightUnknown_eq]
  exact h.withChip ⟨State.inFlightUnknown_wf hwf, State.inFlightUnknown_below hbelow hn⟩ _

/-! The transitions out of the waiting states, from a state in which the transfer has landed. -/

section
variable {a : Answer}

theorem probeTaken_inv (h : s.Standing) (hx : s.x = none) (hop : s.op = .init)
    (he : ∀ e, a = .err e → s.cfg.hasTerr e = true) (ht : probeTaken a s = .next t) : t.Inv := by
  cases a with
  | err e => cases ht; exact h.inv_raise hx (he e rfl) trivial
  | ok r =>
    simp only [probeTaken] at ht
    split at ht <;> cases ht
    · next hm =>
      have hg : State.Standing { s with g := geometryOf s.cfg r } :=
        { h with geometry := geometryOf_populated hm }
      exact hg.inv_respond hx hop
    · exact h.inv_raise hx rfl hop

theorem readTaken_inv (h : s.Standing) (hx : s.x = none) (hr : s.reading) (hn : s.chunk.toNat ≤ s.rem.toNat)
    (he : ∀ e, a = .err e → s.cfg.hasTerr e = true) (ht : readTaken a s = .next t) : t.Inv := by
  cases a with
  | ok d =>
    simp only [readTaken] at ht
    obtain ⟨hd, rfl⟩ := withOutBuf_cases ht
    exact State.Standing.inv_of_slot_empty { h.storeOut hd with } hx rfl (State.reading_advance hr hn .rdNext)
  | err e =>
    simp only [readTaken] at ht
    obtain ⟨hd, rfl⟩ := withOutBuf_cases ht
    exact ((h.storeOut hd).draw _).inv_raise hx (he e rfl) trivial

theorem writeTaken_inv (h : s.Standing) (hx : s.x = none) (hw : s.writing) (hc : s.writeChunkOk)
    (he : ∀ e, a = .err e → s.cfg.hasTerr e = true) (ht : writeTaken a s = .next t) : t.Inv := by
  cases a with
  | ok d =>
    cases ht
    exact State.Standing.inv_of_slot_empty { h with } hx rfl ⟨Config.progBudget_pos h.config, hw, hc⟩
  | err e => cases ht; exact h.inv_raise hx (he e rfl) trivial

theorem eraseTaken_inv (h : s.Standing) (hx : s.x = none) (hw : s.erasing) (hc : s.eraseChunkOk)
    (he : ∀ e, a = .err e → s.cfg.hasTerr e = true) (ht : eraseTaken a s = .next t) : t.Inv := by
  cases a with
  | ok d =>
    cases ht
    have hbudget := Config.progBudget_lt_eraseBudget h.config
    exact State.Standing.inv_of_slot_empty { h with } hx rfl ⟨Nat.one_le_of_lt hbudget, hw, hc⟩
  | err e => cases ht; exact h.inv_raise hx (he e rfl) trivial

theorem State.polling.timeout_returned (h : s.polling) : s.op.returns (.error s.pclass.timeout) := by
  cases hp : s.pclass with
  | program =>
    obtain ⟨⟨hop, -⟩, -⟩ := h.program hp
    exact hop
  | erase =>
    obtain ⟨⟨hop, -⟩, -⟩ := h.erase hp
    exact hop

theorem PollClass.timeout_inTerr (c : Config) (p : PollClass) : (Result.error p.timeout).inTerr c = true := by
  cases p <;> rfl

theorem pollDone_inv (h : s.Standing) (hx : s.x = none) (hp : s.polling) : s.pollDone.Inv := by
  unfold State.pollDone
  split
  · next hc =>
    obtain ⟨hw, -, hchunk, -⟩ := hp.program hc
    exact State.Standing.inv_of_slot_empty { h with } hx rfl (State.writing_advance hw hchunk .wrNext)
  · next hc =>
    obtain ⟨hw, hchunk⟩ := hp.erase hc
    exact State.Standing.inv_of_slot_empty { h with } hx rfl
      (State.erasing_advanceErase h.geometry hw hchunk .erNext)

theorem pollAgain_inv (h : s.Standing) (hx : s.x = none) (hp : s.polling) : s.pollAgain.Inv := by
  have hs : State.Standing { s with ctr := s.ctr - 1#32 } := { h with }
  unfold State.pollAgain
  split
  · have hfail := hs.inFlightUnknown (hp.sector_fits h.geometry)
    exact hfail.inv_raise (by simpa using hx) (PollClass.timeout_inTerr _ _) (by simpa using hp.timeout_returned)
  · next hctr =>
    exact State.Standing.inv_of_slot_empty { hs with } hx rfl ⟨one_le_toNat_of_ne_zero hctr, hp.2⟩

theorem pollTaken_inv (h : s.Standing) (hx : s.x = none) (hp : s.polling)
    (he : ∀ e, a = .err e → s.cfg.hasTerr e = true) (ht : pollTaken a s = .next t) : t.Inv := by
  cases a with
  | err e =>
    cases ht
    have hfail := h.inFlightUnknown (hp.sector_fits h.geometry)
    exact hfail.inv_raise (by simpa using hx) (by simpa [Result.inTerr] using he e rfl) trivial
  | ok r =>
    cases ht
    split
    · exact pollDone_inv h hx hp
    · exact pollAgain_inv h hx hp

end

/-! The loop heads. -/

theorem readIssue_inv (h : s.Standing) (hr : s.rem ≠ 0#32) (hs : s.reading) :
    ({ s with chunk := s.readChunk }.issue .rdWait (freadRequest s.cfg s.cur s.readChunk)).Inv := by
  obtain ⟨hpos, hrem, hmax⟩ := State.readChunk_bounds h.config hr
  have hst : State.Standing { s with chunk := s.readChunk } := { h with }
  exact hst.inv_issue rfl (freadRequest_fromFcf s.cur hpos hmax) ⟨hs, hpos, hrem, hmax, rfl⟩

theorem writeIssue_inv (h : s.Standing) (hr : s.rem ≠ 0#32) (hs : s.writing) {d : List Byte}
    (hd : s.inBuf.read s.idx.toNat s.writeChunk.toNat = some d) :
    ({ s with chunk := s.writeChunk }.issue .wrWait (progRequest s.cfg s.cur s.writeChunk d)).Inv := by
  have hst : State.Standing { s with chunk := s.writeChunk } := { h with }
  have ⟨_, hp, _⟩ := hs
  have hchunk := State.writeChunkOk_of_writeChunk h.config (State.pageSize_of_probed h.geometry hp) hr
  have ⟨hpos, _, hmax, hpage⟩ := hchunk
  have hlen := Buffer.read_length hd
  exact hst.inv_issue rfl (progRequest_fromFcf hpos hmax hlen hpage) ⟨hs, hchunk, d, hlen, rfl⟩

theorem eraseIssue64k_inv (h : s.Standing) (hr : s.rem ≠ 0#32) (hs : s.erasing)
    (hsector : s.g.sectorSize = sectorLarge) :
    ({ s with chunk := s.eraseChunk }.issue .erWait (erase64kRequest s.cfg s.cur)).Inv := by
  have hst : State.Standing { s with chunk := s.eraseChunk } := { h with }
  have ⟨_, _, hm⟩ := hs
  have ⟨haligned, _⟩ := misaligned_eq_false_iff.mp hm
  rw [hsector] at haligned
  exact hst.inv_issue rfl (erase64kRequest_fromFcf h.config haligned)
    ⟨hs, ⟨hr, rfl⟩, .inl ⟨hsector, rfl⟩⟩

theorem eraseIssue4k_inv (h : s.Standing) (hr : s.rem ≠ 0#32) (hs : s.erasing)
    (hsector : s.g.sectorSize ≠ sectorLarge) :
    ({ s with chunk := s.eraseChunk }.issue .erWait (erase4kRequest s.cfg s.cur)).Inv := by
  have hst : State.Standing { s with chunk := s.eraseChunk } := { h with }
  have ⟨_, hp, hm⟩ := hs
  have hsmall := (State.sectorSize_of_probed h.geometry hp).resolve_left hsector
  have ⟨haligned, _⟩ := misaligned_eq_false_iff.mp hm
  rw [hsmall] at haligned
  exact hst.inv_issue rfl (erase4kRequest_fromFcf h.config haligned)
    ⟨hs, ⟨hr, rfl⟩, .inr ⟨hsmall, rfl⟩⟩

/-! Every transition. -/

theorem Transition.keeps_inv (h : Transition s t) (hi : s.Inv) : t.Inv := by
  have hst := hi.standing
  have hseq := hi.sequence
  have hempty {f : Fsm} (hf : s.fsm = f) (hw : f.waits = false) : s.x = none := hi.slot_empty (hf ▸ hw)
  cases h with
  | idle hf hc => exact hi
  | silent rest hf hr => exact hi
  | initStored c rest o l hf hc hd hp =>
    have hin : (s.present c rest).acceptInit.Standing := { hst.present hc with }
    exact hin.inv_respond (hempty hf rfl) rfl
  | initIssue c rest o l hf hc hd hp hx =>
    have hin : (s.present c rest).acceptInit.Standing := { hst.present hc with }
    exact hin.inv_issue rfl (identRequest_fromFcf hst.config) ⟨rfl, hp, rfl⟩
  | readAccept c rest o l hf hc hd hb =>
    have hreading := State.reading_accept (o := o) hb .rdNext
    exact State.Standing.inv_of_slot_empty { hst.present hc with } (hempty hf rfl) rfl hreading
  | writeAccept c rest o l hf hc hd hp hb =>
    have hwriting := State.writing_accept (s := s.present c rest) (o := o) hp hb .wrNext
    exact State.Standing.inv_of_slot_empty { hst.present hc with } (hempty hf rfl) rfl hwriting
  | eraseAccept c rest o l hf hc hd hp =>
    exact State.Standing.inv_of_slot_empty { hst.present hc with } (hempty hf rfl) rfl ⟨rfl, hp⟩
  | probeTake q a u _ hf hx hq hl ht =>
    obtain ⟨rest, c, n, rfl, hu⟩ := hl.standing_of_reading hst fun _ => rfl
    obtain ⟨hop, -, -⟩ := hseq.clause hf
    exact probeTaken_inv hu rfl hop (fun _ => hl.inTerr) ht
  | readEnd hf hr =>
    have hop : s.op = .read := (hseq.clause hf).1
    exact hst.inv_respond (hempty hf rfl) (by simp [Op.returns, hop])
  | readIssue hf hr hx => exact readIssue_inv hst hr (hseq.clause hf)
  | readTake q addr a u _ hf hx hq hl ht =>
    obtain ⟨rest, c, n, rfl, hu⟩ := hl.standing_of_reading hst fun _ => rfl
    obtain ⟨hreading, -, hchunk, -⟩ := hseq.clause hf
    exact readTaken_inv hu rfl hreading hchunk (fun _ => hl.inTerr) ht
  | writeEnd hf hp hr =>
    have hop : s.op = .write := (hseq.clause hf).1
    exact hst.inv_respond (hempty hf rfl) (by simp [Op.returns, hop])
  | writeIssue d hf hp hr hx hd => exact writeIssue_inv hst hr (hseq.clause hf) hd
  | writeTake q addr a u _ hf hx hq hl ht =>
    obtain ⟨rest, c, n, rfl, hu⟩ := hl.standing_of_prog hst
    obtain ⟨hwriting, hchunk, -⟩ := hseq.clause hf
    exact writeTaken_inv hu rfl hwriting hchunk (fun _ => hl.inTerr) ht
  | eraseReject hf hs hm =>
    obtain ⟨hop, -⟩ := hseq.clause hf
    exact hst.inv_raise (hempty hf rfl) rfl hop
  | eraseStart hf hs hm =>
    obtain ⟨hop, hp⟩ := hseq.clause hf
    exact State.Standing.inv_of_slot_empty { hst with } (hempty hf rfl) rfl ⟨hop, hp, hm⟩
  | eraseEnd hf hr =>
    have hop : s.op = .erase := (hseq.clause hf).1
    exact hst.inv_respond (hempty hf rfl) (by simp [Op.returns, hop])
  | eraseIssue64k hf hr hx hs => exact eraseIssue64k_inv hst hr (hseq.clause hf) hs
  | eraseIssue4k hf hr hx hs => exact eraseIssue4k_inv hst hr (hseq.clause hf) hs
  | erase4kTake q addr a u _ hf hx hq hl ht =>
    obtain ⟨rest, c, n, rfl, hu⟩ := hl.standing_of_erase (.inr rfl) hst
    obtain ⟨herasing, hchunk, -⟩ := hseq.clause hf
    exact eraseTaken_inv hu rfl herasing hchunk (fun _ => hl.inTerr) ht
  | erase64kTake q addr a u _ hf hx hq hl ht =>
    obtain ⟨rest, c, n, rfl, hu⟩ := hl.standing_of_erase (.inl rfl) hst
    obtain ⟨herasing, hchunk, -⟩ := hseq.clause hf
    exact eraseTaken_inv hu rfl herasing hchunk (fun _ => hl.inTerr) ht
  | pollIssue hf hx =>
    exact hst.inv_issue rfl (rdsrRequest_fromFcf hst.config) ⟨hseq.clause hf, rfl⟩
  | pollTake q a u _ hf hx hq hl ht =>
    obtain ⟨rest, c, n, rfl, hu⟩ := hl.standing_of_status hst
    obtain ⟨hpolling, -⟩ := hseq.clause hf
    exact pollTaken_inv hu rfl hpolling (fun _ => hl.inTerr) ht
  | take hf => exact State.Standing.inv_of_slot_empty hst.takeResult (hempty hf rfl) rfl trivial

/-- Settles O52, by cases on the transition the step makes. -/
theorem stepKeepsTheInvariant : Obligations.StepKeepsTheInvariant :=
  fun _ _ hi h => (step_transition h).keeps_inv hi

end Sys2Proof.Machine
end

section
/-! PROOF. The state after reset, the frame buffer after an issue, and the instruction a step runs. -/

namespace Sys2Proof.Machine

variable {s : State}

/-- Settles O1, by evaluation of the reset state. -/
theorem resetLeavesFcfIdleAndUnprobed : Obligations.ResetLeavesFcfIdleAndUnprobed :=
  ⟨rfl, rfl, rfl, rfl, rfl, rfl, by decide⟩

/-- The standing clauses at reset: a zero geometry, no request, memories that list nothing. -/
theorem State.reset_standing : State.reset.Standing where
  config := by decide
  geometry := .inl rfl
  requests := List.forall_mem_nil _
  memory := ⟨rfl, rfl, rfl, rfl, List.forall_mem_nil _⟩
  errorValues := List.forall_mem_singleton.mpr rfl

/-- Settles O3: FCF is idle with its slot empty, and IDLE asks nothing of the working registers. -/
theorem invariantAtReset : Obligations.InvariantAtReset :=
  State.reset_standing.inv_of_slot_empty rfl rfl trivial

theorem sequencerMove_of_idle {c : HostCmd} {rest : List HostCmd} (hf : s.fsm = .idle) (hc : s.cmds = c :: rest) :
    sequencerMove s = .run (decodeHost c.word) (s.present c rest) := by
  simp [sequencerMove, hf, idleMove, hc]

theorem sequencerMove_of_waits (hw : s.fsm.waits = true) : sequencerMove s = waitMove s := by
  unfold sequencerMove
  cases hf : s.fsm <;> simp [hf, Fsm.waits] at hw ⊢

/-- Settles O4, from the sequencer's move in IDLE and in a waiting state. -/
theorem stepRunsTheDecodedInstruction : Obligations.StepRunsTheDecodedInstruction := by
  refine ⟨fun s c rest hcfg hf hc => ?_, fun s q i hcfg hw hx hd => ?_⟩
  · rw [step_eq hcfg, sequencerMove_of_idle hf hc]
    rfl
  · rw [step_eq hcfg, sequencerMove_of_waits hw, waitMove_some hx hd]
    rfl

theorem FrameBuffer.load_len {f : FrameBuffer} {cmd : List Byte} (h : cmd.length ≤ 5) :
    (f.load cmd).len.toNat = cmd.length :=
  Nat.mod_eq_of_lt (by omega)

/-- Below the frame's length the buffer holds the frame; what it held before is seen past it only (R24). -/
theorem FrameBuffer.load_bytes {f : FrameBuffer} {cmd : List Byte} {k : Fin 5} (h : k.val < cmd.length) :
    (f.load cmd).bytes[k] = cmd.getD k.val 0 := by
  simp [FrameBuffer.load, h]

/-- Settles O5, by the two facts about `FrameBuffer.load`. -/
theorem issueLoadsTheFrameBuffer : Obligations.IssueLoadsTheFrameBuffer :=
  fun _ _ _ hlen => ⟨FrameBuffer.load_len hlen, fun _ hk => FrameBuffer.load_bytes hk⟩

end Sys2Proof.Machine
end

section
/-! PROOF. What each instruction of the table leaves unchanged: acceptance of the four host commands, issue and
completion of the six frames. Said once per way an instruction answers a next state, and then read off. -/

namespace Sys2Proof.Machine

variable {s t u : State}

/-! The transitions on an answer, inverted. -/

section
variable {a : Answer}

theorem probeTaken_cases (h : probeTaken a u = .next t) :
    (∃ e, a = .err e ∧ t = u.raise (.transportError e)) ∨
    (∃ r, a = .ok r ∧ manufacturerByte u.cfg r = u.cfg.mfrExpected ∧
      t = { u with g := geometryOf u.cfg r }.respond (some (geometryOf u.cfg r))) ∨
    (∃ r, a = .ok r ∧ t = u.raise .geometryMismatch) := by
  cases a with
  | err e => cases h; exact .inl ⟨e, rfl, rfl⟩
  | ok r =>
    simp only [probeTaken] at h
    split at h <;> cases h
    · next hm => exact .inr (.inl ⟨r, rfl, hm, rfl⟩)
    · exact .inr (.inr ⟨r, rfl, rfl⟩)

theorem readTaken_cases (h : readTaken a u = .next t) :
    (∃ d, a = .ok d ∧ u.idx.toNat + d.length ≤ u.outBuf.size ∧
      t = { u with outBuf := { u.outBuf with cells := u.outBuf.cells.writeBytes u.idx.toNat d } }.advance .rdNext) ∨
    (∃ e, a = .err e ∧ u.idx.toNat + u.chunk.toNat ≤ u.outBuf.size ∧
      t = { u with
        outBuf := { u.outBuf with
          cells := u.outBuf.cells.writeBytes u.idx.toNat (freeBytes u.free u.chunk.toNat) }
        free := u.free + u.chunk.toNat }.raise (.transportError e)) := by
  cases a with
  | ok d =>
    simp only [readTaken] at h
    obtain ⟨hd, rfl⟩ := withOutBuf_cases h
    exact .inl ⟨d, rfl, hd, rfl⟩
  | err e =>
    simp only [readTaken] at h
    obtain ⟨hd, rfl⟩ := withOutBuf_cases h
    exact .inr ⟨e, rfl, by simpa using hd, rfl⟩

theorem writeTaken_cases (h : writeTaken a u = .next t) :
    (∃ d, a = .ok d ∧ t = u.enterPoll .program u.cfg.progBudget) ∨
    (∃ e, a = .err e ∧ t = u.raise (.transportError e)) := by
  cases a with
  | ok d => cases h; exact .inl ⟨d, rfl, rfl⟩
  | err e => cases h; exact .inr ⟨e, rfl, rfl⟩

theorem eraseTaken_cases (h : eraseTaken a u = .next t) :
    (∃ d, a = .ok d ∧ t = u.enterPoll .erase u.cfg.eraseBudget) ∨
    (∃ e, a = .err e ∧ t = u.raise (.transportError e)) := by
  cases a with
  | ok d => cases h; exact .inl ⟨d, rfl, rfl⟩
  | err e => cases h; exact .inr ⟨e, rfl, rfl⟩

theorem pollTaken_cases (h : pollTaken a u = .next t) :
    (∃ r, a = .ok r ∧ ready u.cfg u.pclass (statusByte r) = true ∧ t = u.pollDone) ∨
    (∃ r, a = .ok r ∧ ready u.cfg u.pclass (statusByte r) = false ∧ t = u.pollAgain) ∨
    (∃ e, a = .err e ∧ t = u.inFlightUnknown.raise (.transportError e)) := by
  cases a with
  | ok r =>
    cases h
    split
    · next hr => exact .inl ⟨r, rfl, hr, rfl⟩
    · next hr => exact .inr (.inl ⟨r, rfl, by simpa using hr, rfl⟩)
  | err e => cases h; exact .inr (.inr ⟨e, rfl, rfl⟩)

end

/-! The completion of a frame. -/

/-- FCF's transition on the answer to a frame (`exec_completes`); a host command has none. -/
def takenBy : Instr → Answer → State → Out
  | .ident => probeTaken
  | .fread _ => readTaken
  | .prog _ => writeTaken
  | .erase4k _ => eraseTaken
  | .erase64k _ => eraseTaken
  | .rdsr => pollTaken
  | .init _ _ => fun _ s => .next s
  | .read _ _ => fun _ s => .next s
  | .write _ _ => fun _ s => .next s
  | .erase _ _ => fun _ s => .next s

theorem complete_landed {q : Xfer} {does : RefChip → Answer × RefChip} {unknown : State → State}
    {taken : Answer → State → Out} (h : complete q does unknown taken s = .next t)
    (hu : ∀ v, ∃ c n, unknown v = v.withChip c n) :
    t = s ∨ ∃ a rest c n, taken a ((s.landed rest).withChip c n) = .next t := by
  rcases complete_next h with ⟨-, -, rfl⟩ | ⟨a, u, hl, ht⟩
  · exact .inl rfl
  · obtain ⟨rest, c, n, rfl, -⟩ := hl.eq_withChip hu
    exact .inr ⟨a, rest, c, n, ht⟩

/-- Everything a frame can do while a transfer is in flight: nothing, or its transition on an answer, taken with
the slot empty and the chip changed. -/
theorem exec_completes {i : Instr} (hi : i.level = .commandFrame) (hx : s.x ≠ none) (h : exec i s = .next t) :
    t = s ∨ ∃ a rest c n, takenBy i a ((s.landed rest).withChip c n) = .next t := by
  cases i <;> simp only [exec, execIdent, execFread, execProg, execErase4k, execErase64k, execRdsr] at h
  case init | read | write | erase => cases hi
  all_goals
    obtain ⟨hempty, -⟩ | ⟨q, -, -, -, h⟩ := frameStep_cases h
    · exact absurd hempty hx
  case ident | fread => exact complete_landed h id_eq_withChip
  case prog => exact complete_landed h (progUnknown_eq _ _)
  case erase4k | erase64k => exact complete_landed h (eraseUnknown_eq _ _)
  case rdsr => exact complete_landed h busyUnknown_eq

/-- What the completion of the frame `i` leaves unchanged among the registers. -/
structure CompletionKeeps (i : Instr) (s t : State) : Prop where
  cfg : t.cfg = s.cfg
  op : t.op = s.op
  chunk : t.chunk = s.chunk
  f : t.f = s.f
  trace : t.trace = s.trace
  results : t.results = s.results
  cmds : t.cmds = s.cmds
  inBuf : t.inBuf = s.inBuf
  pastCapacity : t.pastCapacity = s.pastCapacity
  /-- only IDENT writes the geometry (R125) -/
  g : i ≠ .ident → t.g = s.g
  /-- only FREAD and RDSR advance (R143, R205) -/
  span : i ≠ .rdsr → (∀ a, i ≠ .fread a) → t.cur = s.cur ∧ t.rem = s.rem ∧ t.idx = s.idx
  /-- IDENT and FREAD leave the counter -/
  ctr : i = .ident ∨ (∃ a, i = .fread a) → t.ctr = s.ctr
  /-- IDENT, RDSR and FREAD leave the poll class -/
  pclass : i = .ident ∨ i = .rdsr ∨ (∃ a, i = .fread a) → t.pclass = s.pclass
  /-- only FREAD stores to OUT_BUF (R143) -/
  outBuf : (∃ a, i = .fread a) ∨ t.outBuf = s.outBuf

theorem CompletionKeeps.refl (i : Instr) (s : State) : CompletionKeeps i s s := by
  constructor <;> simp

theorem takenBy_keeps {i : Instr} {a : Answer} {rest : List Reply} {c : RefChip} {n : Nat}
    (h : takenBy i a ((s.landed rest).withChip c n) = .next t) : CompletionKeeps i s t := by
  cases i with
  | init o l | read o l | write o l | erase o l => cases h; constructor <;> simp
  | ident => rcases probeTaken_cases h with ⟨e, -, rfl⟩ | ⟨r, -, -, rfl⟩ | ⟨r, -, rfl⟩ <;> constructor <;> simp
  | fread addr => rcases readTaken_cases h with ⟨d, -, -, rfl⟩ | ⟨e, -, -, rfl⟩ <;> constructor <;> simp
  | prog addr => rcases writeTaken_cases h with ⟨d, -, rfl⟩ | ⟨e, -, rfl⟩ <;> constructor <;> simp
  | erase4k addr => rcases eraseTaken_cases h with ⟨d, -, rfl⟩ | ⟨e, -, rfl⟩ <;> constructor <;> simp
  | erase64k addr => rcases eraseTaken_cases h with ⟨d, -, rfl⟩ | ⟨e, -, rfl⟩ <;> constructor <;> simp
  | rdsr => rcases pollTaken_cases h with ⟨r, -, -, rfl⟩ | ⟨r, -, -, rfl⟩ | ⟨e, -, rfl⟩ <;> constructor <;> simp

theorem exec_completion_keeps {i : Instr} (hi : i.level = .commandFrame) (hx : s.x ≠ none)
    (h : exec i s = .next t) : CompletionKeeps i s t := by
  rcases exec_completes hi hx h with rfl | ⟨a, rest, c, n, ht⟩
  · exact .refl i t
  · exact takenBy_keeps ht

/-- Settles O38, from the transition of each frame on each answer. -/
theorem frameCompletionFrame : Obligations.FrameCompletionFrame := by
  intro s t i hi hx h
  have hk := exec_completion_keeps hi hx h
  exact ⟨⟨hk.cfg, hk.op, hk.chunk, hk.f, hk.trace, hk.results, hk.cmds, hk.inBuf, hk.pastCapacity⟩,
    hk.g, hk.span, hk.ctr, hk.pclass, hk.outBuf⟩

/-! The issue of a frame. -/

/-- A frame run with the slot empty issues one request and does nothing else. -/
theorem exec_issues {i : Instr} (hi : i.level = .commandFrame) (hx : s.x = none) (h : exec i s = .next t) :
    ∃ wait q, t = s.issue wait q := by
  cases i <;> simp only [exec, execIdent, execFread, execProg, execErase4k, execErase64k, execRdsr] at h
  case init | read | write | erase => cases hi
  all_goals
    obtain ⟨-, -, h⟩ | ⟨q, hq, -⟩ := frameStep_cases h
    swap
    · simp [hx] at hq
  case prog addr =>
    split at h <;> cases h
    exact ⟨_, _, rfl⟩
  all_goals
    cases h
    exact ⟨_, _, rfl⟩

/-- Settles O37: an issue writes `F`, `X`, the sequence of requests and `fsm`. -/
theorem frameIssueFrame : Obligations.FrameIssueFrame := by
  intro s t i hi hx h
  obtain ⟨wait, q, rfl⟩ := exec_issues hi hx h
  simp

/-! The acceptance of a host command. -/

/-- Everything INIT can do (R121, R122, R126, R233). -/
theorem execInit_cases {o : Addr} {l : Word} (h : exec (.init o l) s = .next t) :
    t = s ∨ t = s.acceptInit.respond (some s.g) ∨ t = s.acceptInit.issue .probeWait (identRequest s.cfg) := by
  simp only [exec, execInit] at h
  split at h
  · next hf =>
    split at h
    · cases h; exact .inr (.inl rfl)
    · rcases frameStep_cases h with ⟨-, -, h⟩ | ⟨q, -, hw, -⟩
      · cases h; exact .inr (.inr rfl)
      · simp [hf] at hw
  · cases h; exact .inl rfl

/-- Everything READ, WRITE and ERASE can do: the word is not taken, or it is accepted (R141, R161, R181, R233). -/
theorem exec_accept_cases {i : Instr} {o : Addr} {l : Word} (hi : i = .read o l ∨ i = .write o l ∨ i = .erase o l)
    (h : exec i s = .next t) : t = s ∨ ∃ op nxt, t = s.accept op o l nxt := by
  by_cases hf : s.fsm = .idle
  · right
    rcases hi with rfl | rfl | rfl <;> simp only [exec, execRead, execWrite, execErase, hf, if_true] at h
    · split at h <;> cases h
      exact ⟨.read, .rdNext, rfl⟩
    · split at h
      · split at h <;> cases h
        exact ⟨.write, .wrNext, rfl⟩
      · cases h
    · split at h <;> cases h
      exact ⟨.erase, .erCheck, rfl⟩
  · left
    rcases hi with rfl | rfl | rfl <;> simpa [exec, execRead, execWrite, execErase, hf] using h.symm

/-- Settles O36, from what each host command can do. -/
theorem hostCommandFrame : Obligations.HostCommandFrame := by
  intro s t i o l hi h
  rcases hi with rfl | hi
  · rcases execInit_cases h with rfl | rfl | rfl <;> simp
  · have hinit : i ≠ .init o l := by rintro rfl; simp at hi
    rcases exec_accept_cases hi h with rfl | ⟨op, nxt, rfl⟩ <;> simp [hinit]

end Sys2Proof.Machine
end

section
/-! PROOF. A read chunk that arrives, by a written answer or the chip's. -/

namespace Sys2Proof.Machine

variable {s : State} {q : Xfer} {rest : List Reply}

theorem Xfer.answerLength_of_rd (h : q.dir = .rd) : q.answerLength = q.n.toNat := if_pos h

theorem State.not_asksChip_of_answer {a : Answer} (h : s.replies = .answer a :: rest) : ¬ s.asksChip rest := by
  rintro (hc | ⟨hc, -⟩) <;> simp [h] at hc

/-- How the bytes of a read chunk arrive: as written, or as the chip gives them (R61), and nothing changes but the
slot, the replies and, on a real chip whose conduct is not fixed, the count of free values. -/
theorem fread_lands (a : Addr) (hdir : q.dir = .rd)
    (hr : (∃ d, s.replies = .answer (.ok d) :: rest ∧ d.length = q.n.toNat) ∨ s.asksChip rest) :
    ∃ d n, Lands s q (RefChip.fread a q.n.toNat) id (.ok d) ((s.landed rest).withChip s.chip n) ∧
      (∀ d', s.replies = .answer (.ok d') :: rest → d = d') ∧
      (s.asksChip rest → s.chipFixed →
        ∀ i, i < q.n.toNat → d.getD i 0 = s.chip.mem.read ((a.toNat + i) % 2 ^ 24)) ∧
      (s.chipFixed → n = s.free) := by
  have hlen := Xfer.answerLength_of_rd hdir
  rcases hr with ⟨d, hr, hd⟩ | hr
  · have hl := lands_ok_of_reading (does := RefChip.fread a q.n.toNat) (fun _ => rfl) hr (hd.trans hlen.symm)
    refine ⟨d, s.free, hl, fun d' hr' => ?_, fun hask => absurd hask (State.not_asksChip_of_answer hr), fun _ => rfl⟩
    simpa using hr.symm.trans hr'
  have hwritten (d d' : List Byte) (hr' : s.replies = .answer (.ok d') :: rest) : d = d' :=
    absurd hr (State.not_asksChip_of_answer hr')
  by_cases hfix : s.chipFixed
  · have hl := lands_refchip (q := q) (does := RefChip.fread a q.n.toNat) (unknown := id) hfix hr
      (by simp [RefChip.fread, Answer.fits, hlen])
    exact ⟨_, s.free, hl, hwritten _, fun _ _ i hi => flashBytes_getD _ _ _ _ hi, fun _ => rfl⟩
  · have hans := State.chipAnswer_open (q := q) (does := RefChip.fread a q.n.toNat) hfix
    have hopen : ¬ (State.landed { s with free := s.free + q.answerLength } rest).chipFixed := hfix
    have hl := Lands.chip (q := q) (unknown := id) rest hr (by rw [hans]; simp [Answer.fits])
    rw [hans, State.perform_open hopen] at hl
    exact ⟨_, _, hl, hwritten _, fun _ hf => absurd hf hfix, fun hf => absurd hf hfix⟩

theorem readTaken_ok {u : State} {d : List Byte} (h : u.idx.toNat + d.length ≤ u.outBuf.size) :
    readTaken (.ok d) u = .next
      ({ u with outBuf := { u.outBuf with cells := u.outBuf.cells.writeBytes u.idx.toNat d } }.advance .rdNext) :=
  withOutBuf_next (k := fun s => s.advance .rdNext) h

/-- Settles O15: the chunk lands, and `Memory.read_writeBytes` says which bytes of OUT_BUF it fills. -/
theorem freadSuccessStoresTheChunkAndAdvances : Obligations.FreadSuccessStoresTheChunkAndAdvances := by
  intro s a q rest hf hx hq hdir hr hsize hwf
  obtain ⟨d, n, hl, hwritten, hchip, hfree⟩ := fread_lands a hdir hr
  have hd : d.length = q.n.toNat := (hl.length rfl).trans (Xfer.answerLength_of_rd hdir)
  have hexec : exec (.fread a) s = readTaken (.ok d) ((s.landed rest).withChip s.chip n) := by
    rw [exec, execFread, frameStep_complete hx hf hq, complete_of_lands hl]
  have hread := Memory.read_writeBytes (Bool.and_eq_true_iff.mp hwf).1 s.idx.toNat d
  refine ⟨d, _, hexec.trans (readTaken_ok (hd.symm ▸ hsize)), hd, hwritten, hchip, rfl, rfl,
    fun i hi => ?_, fun i hi => ?_, rfl, hfree⟩
  · exact (hread _).trans (by rw [if_pos (by omega), Nat.add_sub_cancel_left])
  · exact (hread i).trans (if_neg (by omega))

end Sys2Proof.Machine
end

section
/-! PROOF. What every step of the machine keeps: the parameters, the transition table of R23, the one transfer in
flight, and the geometry but for its one write. -/

namespace Sys2Proof.Machine

variable {s t u : State}

section
variable {q : Xfer} {does : RefChip → Answer × RefChip} {unknown : State → State} {a : Answer}

/-- What the end of a transfer leaves, with the transition of the frame `i` on its answer. -/
theorem Lands.keeps (hl : Lands s q does unknown a u) (i : Instr) (hu : ∀ v, ∃ c n, unknown v = v.withChip c n)
    (ht : takenBy i a u = .next t) : CompletionKeeps i s t := by
  obtain ⟨rest, c, n, rfl, -⟩ := hl.eq_withChip hu
  exact takenBy_keeps ht

end

/-- The kinds of steps: the end of a transfer other than the identify transfer, the end of the identify transfer, an
issue, and all the rest, by what they do to the parameters, the geometry, the slot and the sequence of requests. -/
theorem Transition.kinds (h : Transition s t) :
    (∃ i, i ≠ .ident ∧ CompletionKeeps i s t) ∨
    (∃ q a u, s.fsm = .probeWait ∧ Lands s q RefChip.identify id a u ∧ probeTaken a u = .next t) ∨
    (s.x = none ∧ t.cfg = s.cfg ∧ t.g = s.g ∧ ∃ q, t.x = some q ∧ t.trace = s.trace ++ [q]) ∨
    (t.cfg = s.cfg ∧ t.g = s.g ∧ t.trace = s.trace) := by
  cases h with
  | readTake q addr a u _ hf hx hq hl ht =>
    exact .inl ⟨.fread addr, nofun, hl.keeps (.fread addr) id_eq_withChip ht⟩
  | writeTake q addr a u _ hf hx hq hl ht =>
    exact .inl ⟨.prog addr, nofun, hl.keeps (.prog addr) (progUnknown_eq _ _) ht⟩
  | erase4kTake q addr a u _ hf hx hq hl ht =>
    exact .inl ⟨.erase4k addr, nofun, hl.keeps (.erase4k addr) (eraseUnknown_eq _ _) ht⟩
  | erase64kTake q addr a u _ hf hx hq hl ht =>
    exact .inl ⟨.erase64k addr, nofun, hl.keeps (.erase64k addr) (eraseUnknown_eq _ _) ht⟩
  | pollTake q a u _ hf hx hq hl ht => exact .inl ⟨.rdsr, nofun, hl.keeps .rdsr busyUnknown_eq ht⟩
  | probeTake q a u _ hf hx hq hl ht => exact .inr (.inl ⟨q, a, u, hf, hl, ht⟩)
  | initIssue _ _ _ _ _ _ _ _ hx | readIssue _ _ hx | writeIssue _ _ _ _ hx | eraseIssue64k _ _ hx
  | eraseIssue4k _ _ hx | pollIssue _ hx => exact .inr (.inr (.inl ⟨hx, rfl, rfl, _, rfl, rfl⟩))
  | _ => exact .inr (.inr (.inr ⟨rfl, rfl, rfl⟩))

/-- Settles O42, by the kinds of steps. -/
theorem configurationNeverChanges : Obligations.ConfigurationNeverChanges := by
  intro s t h
  rcases (step_transition h).kinds with ⟨i, -, hk⟩ | ⟨q, a, u, -, hl, ht⟩ | ⟨-, hcfg, -⟩ | ⟨hcfg, -⟩
  · exact hk.cfg
  · exact (hl.keeps .ident id_eq_withChip ht).cfg
  · exact hcfg
  · exact hcfg

/-- Settles O44, by the kinds of steps. -/
theorem oneTransferInFlight : Obligations.OneTransferInFlight := by
  intro s t h
  rcases (step_transition h).kinds with
    ⟨i, -, hk⟩ | ⟨q, a, u, -, hl, ht⟩ | ⟨hx, -, -, hissue⟩ | ⟨-, -, htrace⟩
  · exact .inl hk.trace
  · exact .inl (hl.keeps .ident id_eq_withChip ht).trace
  · exact .inr ⟨hx, hissue⟩
  · exact .inl htrace

/-! The geometry. -/

/-- A step that changes the geometry takes the transition of IDENT. -/
theorem Transition.probe_of_g_ne (h : Transition s t) (hg : t.g ≠ s.g) :
    ∃ q a u, s.fsm = .probeWait ∧ Lands s q RefChip.identify id a u ∧ probeTaken a u = .next t := by
  rcases h.kinds with ⟨i, hi, hk⟩ | hprobe | ⟨-, -, hkept, -⟩ | ⟨-, hkept, -⟩
  · exact absurd (hk.g hi) hg
  · exact hprobe
  · exact absurd hkept hg
  · exact absurd hkept hg

theorem geometryOf_eq {c : Config} {r : List Byte} (h : manufacturerByte c r = c.mfrExpected) :
    geometryOf c r = ⟨c.mfrExpected, r.getD c.capIndex 0, 256,
      if r.getD c.capIndex 0 = 0x20 then 65536 else 4096, c.totalSizeConst⟩ := by
  rw [← h]
  rfl

/-- Settles O41: of the three ends of an identify transfer only the right manufacturer byte writes the geometry. -/
theorem geometryIsWrittenWholeAndOnlyByIdentify : Obligations.GeometryIsWrittenWholeAndOnlyByIdentify := by
  intro s t h hg
  obtain ⟨q, a, u, hf, hl, ht⟩ := (step_transition h).probe_of_g_ne hg
  obtain ⟨rest, c, n, rfl, hr⟩ := hl.eq_withChip id_eq_withChip
  rcases probeTaken_cases ht with ⟨e, rfl, rfl⟩ | ⟨r, rfl, hm, rfl⟩ | ⟨r, rfl, rfl⟩
  · exact absurd rfl hg
  · refine ⟨hf, rfl, rfl, r, hr.imp_right fun hask => ⟨hask, fun hfix => ?_⟩, hm, geometryOf_eq hm⟩
    exact Answer.ok.inj (hl.refchip_answer hask hfix)
  · exact absurd rfl hg

/-- Settles O40: the geometry is written in PROBE_WAIT only, where the invariant says FCF is not probed. -/
theorem geometryIsImmutableOnceProbed : Obligations.GeometryIsImmutableOnceProbed := by
  intro s t hi hp h
  by_contra hg
  obtain ⟨q, a, u, hf, -⟩ := (step_transition h).probe_of_g_ne hg
  obtain ⟨-, hunprobed, -⟩ := hi.sequence.clause hf
  exact Bool.false_ne_true (hunprobed.symm.trans hp)

/-! The transition table (R23). -/

section
variable {a : Answer}

theorem probeTaken_fsm (h : probeTaken a u = .next t) : t.fsm = .resp := by
  rcases probeTaken_cases h with ⟨e, -, rfl⟩ | ⟨r, -, -, rfl⟩ | ⟨r, -, rfl⟩ <;> rfl

theorem readTaken_fsm (h : readTaken a u = .next t) : t.fsm = .rdNext ∨ t.fsm = .resp := by
  rcases readTaken_cases h with ⟨d, -, -, rfl⟩ | ⟨e, -, -, rfl⟩
  · exact .inl rfl
  · exact .inr rfl

theorem writeTaken_fsm (h : writeTaken a u = .next t) : t.fsm = .pollIssue ∨ t.fsm = .resp := by
  rcases writeTaken_cases h with ⟨d, -, rfl⟩ | ⟨e, -, rfl⟩
  · exact .inl rfl
  · exact .inr rfl

theorem eraseTaken_fsm (h : eraseTaken a u = .next t) : t.fsm = .pollIssue ∨ t.fsm = .resp := by
  rcases eraseTaken_cases h with ⟨d, -, rfl⟩ | ⟨e, -, rfl⟩
  · exact .inl rfl
  · exact .inr rfl

theorem State.pollDone_fsm : u.pollDone.fsm = .wrNext ∨ u.pollDone.fsm = .erNext := by
  unfold State.pollDone
  split
  · exact .inl rfl
  · exact .inr rfl

theorem State.pollAgain_fsm : u.pollAgain.fsm = .pollIssue ∨ u.pollAgain.fsm = .resp := by
  unfold State.pollAgain
  split
  · exact .inr rfl
  · exact .inl rfl

theorem pollTaken_fsm (h : pollTaken a u = .next t) :
    t.fsm = .wrNext ∨ t.fsm = .erNext ∨ t.fsm = .pollIssue ∨ t.fsm = .resp := by
  rcases pollTaken_cases h with ⟨r, -, -, rfl⟩ | ⟨r, -, -, rfl⟩ | ⟨e, -, rfl⟩
  · exact State.pollDone_fsm.elim .inl (.inr ∘ .inl)
  · exact .inr (.inr State.pollAgain_fsm)
  · exact .inr (.inr (.inr rfl))

end

/-- Settles O43, by the transition the step makes and the states each answer leads to. -/
theorem sequencerFollowsTheTransitionTable : Obligations.SequencerFollowsTheTransitionTable := by
  intro s t h
  cases step_transition h with
  | idle | silent => exact .inl rfl
  | probeTake q a u _ hf hx hq hl ht => simp [fsmEdges, hf, probeTaken_fsm ht]
  | readTake q addr a u _ hf hx hq hl ht => rcases readTaken_fsm ht with ht | ht <;> simp [fsmEdges, hf, ht]
  | writeTake q addr a u _ hf hx hq hl ht => rcases writeTaken_fsm ht with ht | ht <;> simp [fsmEdges, hf, ht]
  | erase4kTake q addr a u _ hf hx hq hl ht | erase64kTake q addr a u _ hf hx hq hl ht =>
    rcases eraseTaken_fsm ht with ht | ht <;> simp [fsmEdges, hf, ht]
  | pollTake q a u _ hf hx hq hl ht =>
    rcases pollTaken_fsm ht with ht | ht | ht | ht <;> simp [fsmEdges, hf, ht]
  | initStored _ _ _ _ hf | initIssue _ _ _ _ hf | readAccept _ _ _ _ hf | writeAccept _ _ _ _ hf
  | eraseAccept _ _ _ _ hf | readEnd hf | readIssue hf | writeEnd hf | writeIssue _ hf | eraseReject hf
  | eraseStart hf | eraseEnd hf | eraseIssue64k hf | eraseIssue4k hf | pollIssue hf | take hf =>
    exact .inr (by simp [fsmEdges, hf])

end Sys2Proof.Machine
end

section
/-! PROOF. READ reads no geometry register (R146): acceptance, loop head and completion commute with a change of the
geometry. -/

namespace Sys2Proof.Machine

variable {s : State}

/-- The state with another geometry. -/
def State.withGeometry (s : State) (g : Geometry) : State := { s with g := g }

/-- An outcome with another geometry in its next state. -/
def outWithGeometry (g : Geometry) : Out → Out := mapNext fun t => t.withGeometry g

section
variable {g : Geometry}

@[simp] theorem State.withGeometry_cfg : (s.withGeometry g).cfg = s.cfg := rfl
@[simp] theorem State.withGeometry_fsm : (s.withGeometry g).fsm = s.fsm := rfl
@[simp] theorem State.withGeometry_x : (s.withGeometry g).x = s.x := rfl
@[simp] theorem State.withGeometry_rem : (s.withGeometry g).rem = s.rem := rfl
@[simp] theorem State.withGeometry_idx : (s.withGeometry g).idx = s.idx := rfl
@[simp] theorem State.withGeometry_outBuf : (s.withGeometry g).outBuf = s.outBuf := rfl
@[simp] theorem State.withGeometry_replies : (s.withGeometry g).replies = s.replies := rfl

@[simp] theorem State.accept_withGeometry (op : Op) (o : Addr) (l : Word) (nxt : Fsm) :
    (s.withGeometry g).accept op o l nxt = (s.accept op o l nxt).withGeometry g := rfl
@[simp] theorem State.respond_withGeometry (info : Option Geometry) :
    (s.withGeometry g).respond info = (s.respond info).withGeometry g := rfl
@[simp] theorem State.landed_withGeometry (rest : List Reply) :
    (s.withGeometry g).landed rest = (s.landed rest).withGeometry g := rfl

@[simp] theorem outWithGeometry_next : outWithGeometry g (.next s) = .next (s.withGeometry g) := rfl
@[simp] theorem outWithGeometry_fault (r : Fault) : outWithGeometry g (.fault r) = .fault r := rfl
@[simp] theorem outWithGeometry_refused (r : Refusal) : outWithGeometry g (.refused r) = .refused r := rfl

theorem execRead_withGeometry (o : Addr) (l : Word) :
    execRead o l (s.withGeometry g) = outWithGeometry g (execRead o l s) := by
  by_cases hf : s.fsm = .idle
  · by_cases hb : s.outBuf.size < l.toNat <;> simp [execRead, hf, hb]
  · simp [execRead, hf]

theorem withOutBuf_withGeometry {d : List Byte} {k : State → State}
    (hk : ∀ v : State, k (v.withGeometry g) = (k v).withGeometry g) :
    withOutBuf (s.withGeometry g) d k = outWithGeometry g (withOutBuf s d k) := by
  unfold withOutBuf
  simp only [State.withGeometry_outBuf, State.withGeometry_idx]
  split
  · next b _ => exact congrArg Host.Outcome.next (hk { s with outBuf := b })
  · rfl

theorem readTaken_withGeometry (a : Answer) (s : State) :
    readTaken a (s.withGeometry g) = outWithGeometry g (readTaken a s) := by
  cases a with
  | ok d => exact withOutBuf_withGeometry (k := fun s => s.advance .rdNext) fun _ => rfl
  | err e =>
    exact withOutBuf_withGeometry
      (k := fun s => { s with free := s.free + s.chunk.toNat }.raise (.transportError e)) fun _ => rfl

variable {q : Xfer} {does : RefChip → Answer × RefChip} {taken : Answer → State → Out}

theorem State.chipAnswer_withGeometry : (s.withGeometry g).chipAnswer q does =
    ((s.chipAnswer q does).1, (s.chipAnswer q does).2.withGeometry g) := by
  by_cases hf : s.chipFixed
  · rw [State.chipAnswer_fixed hf]
    exact State.chipAnswer_fixed hf
  · rw [State.chipAnswer_open hf]
    exact State.chipAnswer_open hf

theorem State.perform_withGeometry :
    (s.withGeometry g).perform does id = (s.perform does id).withGeometry g := by
  by_cases hf : s.chipFixed
  · rw [State.perform_fixed hf]
    exact State.perform_fixed hf
  · rw [State.perform_open hf]
    exact State.perform_open hf

/-- A transfer that only reads does the same whatever the geometry, if the transition on its answer does. -/
theorem complete_withGeometry
    (htaken : ∀ a (v : State), taken a (v.withGeometry g) = outWithGeometry g (taken a v)) :
    complete q does id taken (s.withGeometry g) = outWithGeometry g (complete q does id taken s) := by
  have hchip (rest : List Reply) : completeByChip q does id taken rest (s.withGeometry g) =
      outWithGeometry g (completeByChip q does id taken rest s) := by
    simp only [completeByChip, State.chipAnswer_withGeometry, State.landed_withGeometry, State.perform_withGeometry,
      htaken, State.withGeometry_cfg]
    rw [apply_ite (outWithGeometry g)]
    rfl
  unfold complete
  simp only [State.withGeometry_replies, State.withGeometry_cfg, State.landed_withGeometry,
    State.perform_withGeometry, htaken, hchip, id]
  split
  · rfl
  · rfl
  · rfl
  · rw [apply_ite (outWithGeometry g)]; rfl
  · rw [apply_ite (outWithGeometry g)]; rfl

theorem execFread_withGeometry (a : Addr) :
    execFread a (s.withGeometry g) = outWithGeometry g (execFread a s) := by
  unfold execFread frameStep
  simp only [State.withGeometry_x, State.withGeometry_fsm, State.withGeometry_cfg,
    complete_withGeometry readTaken_withGeometry]
  split
  · rw [apply_ite (outWithGeometry g)]; rfl
  · rw [apply_ite (outWithGeometry g)]; rfl

end

/-- A frame other than FREAD has no transition in RD_WAIT (R23), and a host command is not taken there (R233). -/
theorem exec_in_rdWait_withGeometry (g : Geometry) {q : Xfer} (hf : s.fsm = .rdWait) (hx : s.x = some q) (i : Instr) :
    exec i (s.withGeometry g) = outWithGeometry g (exec i s) := by
  cases i with
  | fread a => exact execFread_withGeometry a
  | init o l => simp [exec, execInit, hf]
  | read o l => exact execRead_withGeometry o l
  | write o l => simp [exec, execWrite, hf]
  | erase o l => simp [exec, execErase, hf]
  | ident => simp [exec, execIdent, frameStep, hf, hx]
  | prog a => simp [exec, execProg, frameStep, hf, hx]
  | erase4k a => simp [exec, execErase4k, frameStep, hf, hx]
  | erase64k a => simp [exec, execErase64k, frameStep, hf, hx]
  | rdsr => simp [exec, execRdsr, frameStep, hf, hx]

theorem readHead_withGeometry (g : Geometry) :
    (readHead (s.withGeometry g)).outcome = outWithGeometry g (readHead s).outcome := by
  by_cases hr : s.rem = 0#32
  · simp [readHead, hr, Move.outcome]
  · simp only [readHead, State.withGeometry_rem, hr, if_false]
    exact execFread_withGeometry (s := { s with chunk := s.readChunk }) s.cur

theorem waitMove_withGeometry (g : Geometry) (hf : s.fsm = .rdWait) :
    (waitMove (s.withGeometry g)).outcome = outWithGeometry g (waitMove s).outcome := by
  unfold waitMove
  simp only [State.withGeometry_x, State.withGeometry_cfg]
  split
  · rfl
  · next q hx =>
    split
    · next i hi => exact exec_in_rdWait_withGeometry g hf hx i
    · rfl

theorem step_withGeometry (g : Geometry) (hf : s.fsm = .rdNext ∨ s.fsm = .rdWait) :
    step (s.withGeometry g) = outWithGeometry g (step s) := by
  cases hc : s.cfg.wf
  · rw [step_of_not_wf hc]
    exact step_of_not_wf hc
  rw [step_eq hc, step_eq (s := s.withGeometry g) hc]
  rcases hf with hf | hf <;> simp only [sequencerMove, State.withGeometry_fsm, hf]
  · exact readHead_withGeometry g
  · exact waitMove_withGeometry g hf

/-- Settles O47: acceptance, loop head and completion commute with a change of the geometry. -/
theorem readIgnoresTheGeometry : Obligations.ReadIgnoresTheGeometry :=
  fun _ g => ⟨fun o l => execRead_withGeometry o l, step_withGeometry g⟩

end Sys2Proof.Machine
end

section
/-! PROOF. The acceptance of READ, WRITE and ERASE in IDLE (R141, R161, R181), and what INIT does there (R122, R126). -/

namespace Sys2Proof.Machine

variable {s : State} {o : Addr} {l : Word}

theorem runsPastCapacity_eq (c : Config) (o : Addr) (l : Word) :
    runsPastCapacity c o l =
      decide (c.totalSizeConst.toNat < o.toNat + l.toNat ∨ 2 ^ 24 < o.toNat + l.toNat) :=
  (Bool.decide_or _ _).symm

theorem State.accept_eq (s : State) (op : Op) (o : Addr) (l : Word) (nxt : Fsm) :
    s.accept op o l nxt = { s with
      op := op, cur := o, rem := l, idx := 0#32, fsm := nxt
      pastCapacity := decide (s.cfg.totalSizeConst.toNat < o.toNat + l.toNat ∨ 2 ^ 24 < o.toNat + l.toNat) } := by
  rw [← runsPastCapacity_eq]
  rfl

theorem exec_read_of_idle (hf : s.fsm = .idle) (hb : l.toNat ≤ s.outBuf.size) :
    exec (.read o l) s = .next (s.accept .read o l .rdNext) := by
  simp [exec, execRead, hf, Nat.not_lt.mpr hb]

theorem exec_write_of_idle (hf : s.fsm = .idle) (hp : s.probed = true) (hb : l.toNat ≤ s.inBuf.size) :
    exec (.write o l) s = .next (s.accept .write o l .wrNext) := by
  simp [exec, execWrite, hf, hp, Nat.not_lt.mpr hb]

theorem exec_erase_of_idle (hf : s.fsm = .idle) (hp : s.probed = true) :
    exec (.erase o l) s = .next (s.accept .erase o l .erCheck) := by
  simp [exec, execErase, hf, hp]

theorem exec_init_of_probed (hf : s.fsm = .idle) (hp : s.probed = true) :
    exec (.init o l) s = .next (s.acceptInit.respond (some s.g)) := by
  simp [exec, execInit, hf, hp]

theorem exec_init_of_unprobed (hf : s.fsm = .idle) (hp : s.probed = false) (hx : s.x = none) :
    exec (.init o l) s = .next (s.acceptInit.issue .probeWait (identRequest s.cfg)) := by
  simp [exec, execInit, execIdent, frameStep, hf, hp, hx]

/-- Settles O12, from the acceptance of READ. -/
theorem readIsAccepted : Obligations.ReadIsAccepted :=
  fun s o l hf hb => by rw [exec_read_of_idle hf hb, s.accept_eq]

/-- Settles O17, from the acceptance of WRITE. -/
theorem writeIsAccepted : Obligations.WriteIsAccepted :=
  fun s o l hf hp hb => by rw [exec_write_of_idle hf (State.probed_iff.mpr hp) hb, s.accept_eq]

/-- Settles O23, from the acceptance of ERASE. -/
theorem eraseIsAccepted : Obligations.EraseIsAccepted :=
  fun s o l hf hp => by rw [exec_erase_of_idle hf (State.probed_iff.mpr hp), s.accept_eq]

end Sys2Proof.Machine
end

section
/-! PROOF. The step forwards in every state of the sequencer where no transfer is in flight (R23): the loop heads,
the alignment check, the issue of a status read. -/

namespace Sys2Proof.Machine

variable {s : State}

section
variable (hc : s.cfg.wf = true)
include hc

theorem step_idle_of_no_command (hf : s.fsm = .idle) (hcmds : s.cmds = []) : step s = .next s := by
  simp [step_eq hc, sequencerMove, hf, idleMove, hcmds, Move.outcome]

theorem step_idle_of_command (hf : s.fsm = .idle) {c : HostCmd} {rest : List HostCmd} (hcmds : s.cmds = c :: rest) :
    step s = exec (decodeHost c.word) (s.present c rest) := by
  rw [step_eq hc, sequencerMove_of_idle hf hcmds]
  rfl

theorem step_resp (hf : s.fsm = .resp) : step s = .next s.takeResult := by
  simp [step_eq hc, sequencerMove, hf, Move.outcome]

theorem step_rdNext_of_done (hf : s.fsm = .rdNext) (hr : s.rem = 0#32) : step s = .next (s.respond none) := by
  simp [step_eq hc, sequencerMove, hf, readHead, hr, Move.outcome]

theorem step_rdNext_of_left (hf : s.fsm = .rdNext) (hx : s.x = none) (hr : s.rem ≠ 0#32) :
    step s =
      .next ({ s with chunk := s.readChunk }.issue .rdWait (freadRequest s.cfg s.cur s.readChunk)) := by
  simp [step_eq hc, sequencerMove, hf, readHead, hr, Move.outcome, exec, execFread, frameStep, hx]

theorem step_wrNext_of_done (hf : s.fsm = .wrNext) (hp : s.g.pageSize ≠ 0#32) (hr : s.rem = 0#32) :
    step s = .next (s.respond none) := by
  simp [step_eq hc, sequencerMove, hf, writeHead, hp, hr, Move.outcome]

theorem step_wrNext_of_left (hf : s.fsm = .wrNext) (hx : s.x = none) (hp : s.g.pageSize ≠ 0#32)
    (hr : s.rem ≠ 0#32) (hb : s.idx.toNat + s.writeChunk.toNat ≤ s.inBuf.size) :
    step s = .next ({ s with chunk := s.writeChunk }.issue .wrWait
      (progRequest s.cfg s.cur s.writeChunk (s.inBuf.cells.readBytes s.idx.toNat s.writeChunk.toNat))) := by
  simp [step_eq hc, sequencerMove, hf, writeHead, hp, hr, Move.outcome, exec, execProg, frameStep, hx,
    Buffer.read_eq_some hb]

theorem step_erCheck_of_misaligned (hf : s.fsm = .erCheck) (hs : s.g.sectorSize ≠ 0#32)
    (hm : misaligned s.g.sectorSize s.cur s.rem = true) : step s = .next (s.raise .alignmentError) := by
  simp [step_eq hc, sequencerMove, hf, eraseCheck, hs, hm, Move.outcome]

theorem step_erCheck_of_aligned (hf : s.fsm = .erCheck) (hs : s.g.sectorSize ≠ 0#32)
    (hm : misaligned s.g.sectorSize s.cur s.rem = false) : step s = .next { s with fsm := .erNext } := by
  simp [step_eq hc, sequencerMove, hf, eraseCheck, hs, hm, Move.outcome]

theorem step_erNext_of_done (hf : s.fsm = .erNext) (hr : s.rem = 0#32) : step s = .next (s.respond none) := by
  simp [step_eq hc, sequencerMove, hf, eraseHead, hr, Move.outcome]

theorem step_pollIssue (hf : s.fsm = .pollIssue) (hx : s.x = none) :
    step s = .next (s.issue .pollWait (rdsrRequest s.cfg)) := by
  simp [step_eq hc, sequencerMove, hf, Move.outcome, exec, execRdsr, frameStep, hx]

end

/-- The request that ERASE issues for a sector (R180, R183). -/
def State.eraseRequest (s : State) : Xfer :=
  if s.g.sectorSize = sectorLarge then erase64kRequest s.cfg s.cur else erase4kRequest s.cfg s.cur

theorem exec_erase4k_of_erNext (hf : s.fsm = .erNext) (hx : s.x = none) (a : Addr) :
    exec (.erase4k a) s = .next (s.issue .erWait (erase4kRequest s.cfg a)) := by
  rw [exec, execErase4k, frameStep_issue hx hf]

theorem exec_erase64k_of_erNext (hf : s.fsm = .erNext) (hx : s.x = none) (a : Addr) :
    exec (.erase64k a) s = .next (s.issue .erWait (erase64kRequest s.cfg a)) := by
  rw [exec, execErase64k, frameStep_issue hx hf]

theorem eraseHead_of_left (hr : s.rem ≠ 0#32) :
    eraseHead s = .run s.eraseFrame { s with chunk := s.eraseChunk } := if_neg hr

theorem step_erNext_of_left (hc : s.cfg.wf = true) (hf : s.fsm = .erNext) (hx : s.x = none) (hr : s.rem ≠ 0#32) :
    step s = .next ({ s with chunk := s.eraseChunk }.issue .erWait s.eraseRequest) := by
  rw [step_eq hc, sequencerMove, hf]
  simp only [eraseHead_of_left hr, Move.outcome]
  by_cases hs : s.g.sectorSize = sectorLarge
  · rw [State.eraseFrame, if_pos hs, State.eraseRequest, if_pos hs]
    exact exec_erase64k_of_erNext (s := { s with chunk := s.eraseChunk }) hf hx s.cur
  · rw [State.eraseFrame, if_neg hs, State.eraseRequest, if_neg hs]
    exact exec_erase4k_of_erNext (s := { s with chunk := s.eraseChunk }) hf hx s.cur

/-- Settles O24, by the two branches of the check. -/
theorem eraseChecksAlignment : Obligations.EraseChecksAlignment := by
  intro s hc hf hs
  refine ⟨fun hm => step_erCheck_of_misaligned hc hf hs ?_, fun hcur hrem =>
    step_erCheck_of_aligned hc hf hs (misaligned_eq_false_iff.mpr ⟨hcur, hrem⟩)⟩
  simpa [misaligned] using hm

/-- Settles O19: the chunk by `State.writeChunk_toNat`, its page by `State.writeChunkOk_of_writeChunk`. -/
theorem writeLoopHead : Obligations.WriteLoopHead := by
  intro s hc hf hx hp hb
  have hp0 : s.g.pageSize ≠ 0#32 := by rw [hp]; decide
  refine ⟨step_wrNext_of_done hc hf hp0, fun hr => ?_⟩
  obtain ⟨hpos, hrem, -, hpage⟩ := State.writeChunkOk_of_writeChunk hc hp hr
  exact ⟨s.writeChunk, s.inBuf.cells.readBytes s.idx.toNat s.writeChunk.toNat, State.writeChunk_toNat hp, hpos,
    hpage, Memory.readBytes_length _ _ _, Memory.readBytes_getD _ _ _,
    step_wrNext_of_left hc hf hx hp0 hr ((Nat.add_le_add_left hrem _).trans hb)⟩

/-- Settles O20: PROG reads the chunk's bytes in the step of its issue (R163). -/
theorem progIsIssued : Obligations.ProgIsIssued := by
  intro s a hf hx hb
  refine ⟨progRequest s.cfg a s.chunk (s.inBuf.cells.readBytes s.idx.toNat s.chunk.toNat), rfl, rfl, rfl,
    Memory.readBytes_length _ _ _, Memory.readBytes_getD _ _ _, ?_⟩
  rw [exec, execProg, frameStep_issue hx hf, Buffer.read_eq_some hb]
  rfl

end Sys2Proof.Machine
end

section
/-! PROOF. The completion of each frame forwards: the transition on the answer, once the transfer lands. -/

namespace Sys2Proof.Machine

variable {s u : State} {q : Xfer} {a : Addr} {rest : List Reply}

/-! A frame in flight runs its completion (R55). -/

theorem exec_ident_in_flight (hf : s.fsm = .probeWait) (hx : s.x = some q) (hq : q.cmd = frameIdent s.cfg) :
    exec .ident s = complete q RefChip.identify id probeTaken s := by
  rw [exec, execIdent, frameStep_complete hx hf hq]

theorem exec_fread_in_flight (hf : s.fsm = .rdWait) (hx : s.x = some q) (hq : q.cmd = frameRead s.cfg a) :
    exec (.fread a) s = complete q (RefChip.fread a q.n.toNat) id readTaken s := by
  rw [exec, execFread, frameStep_complete hx hf hq]

theorem exec_prog_in_flight (hf : s.fsm = .wrWait) (hx : s.x = some q) (hq : q.cmd = frameProg s.cfg a) :
    exec (.prog a) s = complete q (RefChip.prog a q.wdata) (fun s => s.progUnknown a q.n.toNat) writeTaken s := by
  rw [exec, execProg, frameStep_complete hx hf hq]

theorem exec_erase4k_in_flight (hf : s.fsm = .erWait) (hx : s.x = some q) (hq : q.cmd = frameErase4K s.cfg a) :
    exec (.erase4k a) s = complete q (RefChip.erase 4096 a) (fun s => s.eraseUnknown a 4096) eraseTaken s := by
  rw [exec, execErase4k, frameStep_complete hx hf hq]
  rfl

theorem exec_erase64k_in_flight (hf : s.fsm = .erWait) (hx : s.x = some q) (hq : q.cmd = frameErase64K s.cfg a) :
    exec (.erase64k a) s = complete q (RefChip.erase 65536 a) (fun s => s.eraseUnknown a 65536) eraseTaken s := by
  rw [exec, execErase64k, frameStep_complete hx hf hq]
  rfl

theorem exec_rdsr_in_flight (hf : s.fsm = .pollWait) (hx : s.x = some q) (hq : q.cmd = frameRdsr s.cfg) :
    exec .rdsr s = complete q (RefChip.status s.cfg.busyMask) State.busyUnknown pollTaken s := by
  rw [exec, execRdsr, frameStep_complete hx hf hq]

/-! A write-class frame completes with `Ok` (R164, R185). -/

theorem Xfer.answerLength_of_ne_rd (h : q.dir ≠ .rd) : q.answerLength = 0 := if_neg h

section
variable {does : RefChip → Answer × RefChip} {unknown : State → State} {taken : Answer → State → Out}

/-- By a written answer or the chip's; the chip performs the frame, as REFCHIP does while its conduct is fixed. -/
theorem lands_of_writeClass (hdoes : ∀ c, (does c).1 = .ok []) (hu : ∀ v, ∃ c n, unknown v = v.withChip c n)
    (hdir : q.dir ≠ .rd) (hr : s.replies = .answer (.ok []) :: rest ∨ s.asksChip rest) :
    ∃ c n, Lands s q does unknown (.ok []) ((s.landed rest).withChip c n) ∧
      (s.chipFixed → c = (does s.chip).2 ∧ n = s.free) := by
  have hlen := Xfer.answerLength_of_ne_rd hdir
  by_cases hfix : s.chipFixed
  · refine ⟨(does s.chip).2, s.free, ?_, fun _ => ⟨rfl, rfl⟩⟩
    rcases hr with hr | hr
    · exact lands_ok hfix hr hlen.symm
    · have hl := lands_refchip (q := q) (does := does) (unknown := unknown) hfix hr (by simp [hdoes, Answer.fits, hlen])
      rwa [hdoes] at hl
  · have hopen : ¬ (s.landed rest).chipFixed := hfix
    obtain ⟨c, n, hc⟩ := hu (s.landed rest)
    refine ⟨c, n, ?_, fun h => absurd h hfix⟩
    rw [← hc, ← State.perform_open (does := does) (unknown := unknown) hopen]
    rcases hr with hr | hr
    · exact .ok [] rest hr hlen.symm
    · have hans : s.chipAnswer q does = (.ok [], s) := by rw [State.chipAnswer_open hfix, hlen]; rfl
      have hl := Lands.chip (unknown := unknown) rest hr (by rw [hans]; simp [Answer.fits, hlen])
      rwa [hans] at hl

/-- A failed transfer takes the transition on `Err`, the chip as its unknown effect leaves it. -/
theorem complete_of_err {e : Terr} (hr : s.replies = .answer (.err e) :: rest) (he : s.cfg.hasTerr e = true) :
    complete q does unknown taken s = taken (.err e) (unknown (s.landed rest)) :=
  complete_of_lands (.err e rest hr he)

end

theorem exec_prog_of_ok (hf : s.fsm = .wrWait) (hx : s.x = some q) (hq : q.cmd = frameProg s.cfg a)
    (hdir : q.dir ≠ .rd) (hr : s.replies = .answer (.ok []) :: rest ∨ s.asksChip rest) :
    ∃ c n, (s.chipFixed → c = (RefChip.prog a q.wdata s.chip).2 ∧ n = s.free) ∧
      exec (.prog a) s = .next (((s.landed rest).withChip c n).enterPoll .program s.cfg.progBudget) := by
  obtain ⟨c, n, hl, hfix⟩ := lands_of_writeClass (does := RefChip.prog a q.wdata) (fun _ => rfl)
    (progUnknown_eq a q.n.toNat) hdir hr
  exact ⟨c, n, hfix, (exec_prog_in_flight hf hx hq).trans (complete_of_lands hl)⟩

/-- Of either erase frame, said at a sector of `sector` bytes. -/
theorem exec_erase_of_ok {i : Instr} {sector : Nat}
    (hi : exec i s = complete q (RefChip.erase sector a) (fun s => s.eraseUnknown a sector) eraseTaken s)
    (hdir : q.dir ≠ .rd) (hr : s.replies = .answer (.ok []) :: rest ∨ s.asksChip rest) :
    ∃ c n, (s.chipFixed → c = (RefChip.erase sector a s.chip).2 ∧ n = s.free) ∧
      exec i s = .next (((s.landed rest).withChip c n).enterPoll .erase s.cfg.eraseBudget) := by
  obtain ⟨c, n, hl, hfix⟩ := lands_of_writeClass (does := RefChip.erase sector a) (fun _ => rfl)
    (eraseUnknown_eq a sector) hdir hr
  exact ⟨c, n, hfix, hi.trans (complete_of_lands hl)⟩

/-- Settles O21, from the transition of PROG on `Ok`. -/
theorem progSuccessEntersTheProgramPoll : Obligations.ProgSuccessEntersTheProgramPoll :=
  fun _ _ _ _ => exec_prog_of_ok

/-- Settles O28, from the transition of either erase frame on `Ok`. -/
theorem eraseFrameSuccessEntersTheErasePoll : Obligations.EraseFrameSuccessEntersTheErasePoll :=
  fun _ _ _ _ hf hx hdir hr =>
    ⟨fun hq => exec_erase_of_ok (exec_erase4k_in_flight hf hx hq) hdir hr,
      fun hq => exec_erase_of_ok (exec_erase64k_in_flight hf hx hq) hdir hr⟩

/-! The cells of a sector and of a chunk. -/

/-- The sector of `n` bytes that holds address `a`. -/
theorem sector_iff {n : Nat} (hn : 0 < n) (a k : Nat) : a - a % n ≤ k ∧ k < a - a % n + n ↔ k / n = a / n := by
  have hdiv := Nat.div_add_mod a n
  rw [Nat.div_eq_iff hn, Nat.mul_comm (a / n)]
  omega

/-- The targets of at most a page's bytes are distinct (R62). -/
theorem progTarget_inj {a i j : Nat} (hi : i < 256) (hj : j < 256) (h : progTarget a i = progTarget a j) : i = j := by
  unfold progTarget at h
  omega

/-- A PROG ANDs each of its bytes into the cell that the byte targets. -/
theorem progBytes_read_target {m : Memory} (h : m.wf = true) {a i : Nat} {ds : List Byte}
    (hpage : i + ds.length ≤ 256) {j : Nat} (hj : j < ds.length) :
    (progBytes m a i ds).read (progTarget a (i + j)) = m.read (progTarget a (i + j)) &&& ds.getD j 0 := by
  induction ds generalizing m i j with
  | nil => simp at hj
  | cons d ds ih =>
    simp only [List.length_cons] at hpage hj
    have hwf := Memory.write_wf h (progTarget a i) (m.read (progTarget a i) &&& d)
    cases j with
    | zero =>
      have hother (k : Nat) (hk : k < ds.length) : progTarget a i ≠ progTarget a (i + 1 + k) :=
        fun he => by have := progTarget_inj (by omega) (by omega) he; omega
      rw [Nat.add_zero, progBytes, progBytes_read_other hwf hother, Memory.read_write h, if_pos rfl,
        List.getD_cons_zero]
    | succ j =>
      have hne : progTarget a (i + 1 + j) ≠ progTarget a i :=
        fun he => by have := progTarget_inj (by omega) (by omega) he; omega
      rw [show i + (j + 1) = i + 1 + j by omega, progBytes, ih hwf (by omega) (by omega), Memory.read_write h,
        if_neg hne, List.getD_cons_succ]

/-- Settles O59, from the completion of PROG and the cells of `progBytes`. -/
theorem refchipProgramsInsideThePage : Obligations.RefchipProgramsInsideThePage := by
  intro s a q rest hf hx hq hdir hr hfix hwf hlen
  obtain ⟨c, n, hc, ht⟩ := exec_prog_of_ok hf hx hq (by simp [hdir]) (.inr hr)
  obtain ⟨rfl, rfl⟩ := hc hfix
  refine ⟨_, ht, rfl, rfl, rfl, fun i hi => ?_, fun k hk => ?_⟩
  · have hcell := progBytes_read_target hwf (a := a.toNat) (i := 0) ((Nat.zero_add _).trans_le hlen) hi
    rwa [Nat.zero_add] at hcell
  · exact progBytes_read_other hwf fun j hj => by rw [Nat.zero_add]; exact hk j hj

theorem refchip_erases_sector {i : Instr} {sector : Nat} (hn : 0 < sector)
    (hi : exec i s = complete q (RefChip.erase sector a) (fun s => s.eraseUnknown a sector) eraseTaken s)
    (hdir : q.dir = .none) (hr : s.asksChip rest) (hfix : s.chipFixed) (hwf : s.chip.mem.wf = true) :
    ∃ t, exec i s = .next t ∧ t.replies = rest ∧ t.chip.busyn = s.chip.ks.headD 0 ∧ t.chip.ks = s.chip.ks.tail ∧
      ∀ k, t.chip.mem.read k = if k / sector = a.toNat / sector then 0xFF else s.chip.mem.read k := by
  obtain ⟨c, n, hc, ht⟩ := exec_erase_of_ok hi (by simp [hdir]) (.inr hr)
  obtain ⟨rfl, rfl⟩ := hc hfix
  refine ⟨_, ht, rfl, rfl, rfl, fun k => ?_⟩
  simp only [State.enterPoll_chip, State.withChip_chip, RefChip.erase_read hwf, sector_iff hn]
  rfl

/-- Settles O60, from the completion of either erase frame. -/
theorem refchipErasesTheSector : Obligations.RefchipErasesTheSector :=
  fun _ _ _ _ hf hx hdir hr hfix hwf =>
    ⟨fun hq => refchip_erases_sector (by omega) (exec_erase4k_in_flight hf hx hq) hdir hr hfix hwf,
      fun hq => refchip_erases_sector (by omega) (exec_erase64k_in_flight hf hx hq) hdir hr hfix hwf⟩

/-! A transfer that fails (R123, R144, R164, R185, R203). -/

/-- Settles O9: IDENT has no part of the chip's. -/
theorem identifyFailureRaisesTransportError : Obligations.IdentifyFailureRaisesTransportError :=
  fun _ _ _ _ hf hx hq hr he => (exec_ident_in_flight hf hx hq).trans (complete_of_err hr he)

theorem readTaken_err {e : Terr} (h : u.idx.toNat + u.chunk.toNat ≤ u.outBuf.size) :
    readTaken (.err e) u = .next
      ({ u with
        outBuf := { u.outBuf with
          cells := u.outBuf.cells.writeBytes u.idx.toNat (freeBytes u.free u.chunk.toNat) }
        free := u.free + u.chunk.toNat }.raise (.transportError e)) := by
  rw [readTaken, withOutBuf_next (by simpa using h)]

/-- Settles O16: the free bytes fill the chunk of OUT_BUF, by `Memory.read_writeBytes`. -/
theorem freadFailureLeavesEarlierChunksIntact : Obligations.FreadFailureLeavesEarlierChunksIntact := by
  intro s a q e rest hf hx hq hr he hsize hwf
  have hexec : exec (.fread a) s = readTaken (.err e) (s.landed rest) :=
    (exec_fread_in_flight hf hx hq).trans (complete_of_err hr he)
  refine ⟨_, hexec.trans (readTaken_err hsize), rfl, fun i hi => ?_, rfl⟩
  refine (Memory.read_writeBytes (Bool.and_eq_true_iff.mp hwf).1 _ _ i).trans (if_neg ?_)
  simp
  omega

/-- A failed erase leaves every cell outside its sector alone, unless a real chip is asked for a request past its
capacity. -/
theorem State.eraseUnknown_read_other (h : s.chip.mem.wf = true) (hb : ¬ s.beyond) {sector k : Nat} (hn : 0 < sector)
    (hk : k / sector ≠ a.toNat / sector) : (s.eraseUnknown a sector).chip.mem.read k = s.chip.mem.read k := by
  have hout := (sector_iff hn a.toNat k).not.mpr hk
  rw [State.eraseUnknown_near hb, State.sectorUnknown_read h]
  omega

theorem State.progUnknown_read_other (h : s.chip.mem.wf = true) (hb : ¬ s.beyond) {n k : Nat}
    (hk : ∀ j, j < n → k ≠ progTarget a.toNat j) : (s.progUnknown a n).chip.mem.read k = s.chip.mem.read k := by
  rw [State.progUnknown_near hb, State.chunkUnknown_read h a n k hk]

theorem exec_erase_of_err {i : Instr} {sector : Nat} (hn : 0 < sector)
    (hi : exec i s = complete q (RefChip.erase sector a) (fun s => s.eraseUnknown a sector) eraseTaken s)
    {e : Terr} (hr : s.replies = .answer (.err e) :: rest) (he : s.cfg.hasTerr e = true)
    (hwf : s.chip.mem.wf = true) :
    ∃ t, exec i s = .next t ∧
      t = { s with
        x := none, replies := rest, res := .error (.transportError e), fsm := .resp
        chip := t.chip, free := t.free } ∧
      t.chip.ks = s.chip.ks ∧ t.chip.idResp = s.chip.idResp ∧ t.chip.conduct = s.chip.conduct.afterFailure ∧
      (¬ s.beyond → ∀ k, k / sector ≠ a.toNat / sector → t.chip.mem.read k = s.chip.mem.read k) := by
  refine ⟨_, hi.trans (complete_of_err hr he), ?_, State.eraseUnknown_chip_ks _ _ _,
    State.eraseUnknown_chip_idResp _ _ _, State.eraseUnknown_chip_conduct _ _ _,
    fun hb k hk => State.eraseUnknown_read_other (s := s.landed rest) hwf hb hn hk⟩
  rw [State.eraseUnknown_eq]
  rfl

/-- Settles O22: the unknown effect of a failed frame is on its chunk or its sector. -/
theorem writeClassFailureRaisesTransportError : Obligations.WriteClassFailureRaisesTransportError := by
  intro s a q e rest hx hr he hwf
  refine ⟨fun hf hq => ?_,
    fun hf hq => exec_erase_of_err (by omega) (exec_erase4k_in_flight hf hx hq) hr he hwf,
    fun hf hq => exec_erase_of_err (by omega) (exec_erase64k_in_flight hf hx hq) hr he hwf⟩
  refine ⟨_, (exec_prog_in_flight hf hx hq).trans (complete_of_err hr he), ?_, State.progUnknown_chip_ks _ _ _,
    State.progUnknown_chip_idResp _ _ _, State.progUnknown_chip_conduct _ _ _,
    fun hb k hk => State.progUnknown_read_other (s := s.landed rest) hwf hb hk⟩
  rw [State.progUnknown_eq]
  rfl

/-- Settles O30: the poll that fails leaves the cells of the chunk or sector in flight unknown, on a real chip. -/
theorem statusReadFailureRaisesTransportError : Obligations.StatusReadFailureRaisesTransportError := by
  intro s q e rest hf hx hq hr he hwf
  refine ⟨_, (exec_rdsr_in_flight hf hx hq).trans (complete_of_err hr he), ?_, ?_, ?_, fun hc => ?_, fun hb k hk => ?_⟩
  · rw [State.inFlightUnknown_eq]
    rfl
  · simp
  · simp
  · simp [State.inFlightUnknown, hc]
  · exact State.inFlightUnknown_read (s := (s.landed rest).busyUnknown) hwf (by simpa [State.beyond] using hb) hk

end Sys2Proof.Machine
end

section
/-! PROOF. Which bytes the completion of a frame stores to (R47, R61, R62, R63; log 9). -/

namespace Sys2Proof.Machine

variable {s t u : State} {q : Xfer} {a : Addr} {ans : Answer} {does : RefChip → Answer × RefChip}

/-- Everything a frame can do with its transfer in flight: nothing, or its transition on the answer that lands. -/
theorem frameStep_lands {start wait : Fsm} {cmd : List Byte} {issueIt : State → Out}
    {does : Xfer → State → RefChip → Answer × RefChip} {unknown : Xfer → State → State}
    {taken : Answer → State → Out} (hx : s.x = some q)
    (h : frameStep start wait cmd issueIt (fun q s => complete q (does q s) (unknown q) taken s) s = .next t) :
    t = s ∨ ∃ a u, Lands s q (does q s) (unknown q) a u ∧ taken a u = .next t := by
  obtain ⟨hempty, -⟩ | ⟨q', hx', -, -, h⟩ := frameStep_cases h
  · simp [hx] at hempty
  · obtain rfl : q = q' := Option.some.inj (hx.symm.trans hx')
    obtain ⟨-, -, rfl⟩ | hl := complete_next h
    · exact .inl rfl
    · exact .inr hl

/-! The chip after a transfer. -/

/-- A frame that only reads leaves the chip as it is (R47). -/
theorem Lands.chip_of_reading (hl : Lands s q does id ans u) (hdoes : ∀ c, (does c).2 = c) : u.chip = s.chip :=
  hl.chip_keeps (P := (· = s.chip)) rfl (fun c hc => (hdoes c).trans hc) fun _ _ _ hv => hv

theorem State.beyond_congr (hchip : u.chip = s.chip) (hpast : u.pastCapacity = s.pastCapacity) :
    u.beyond ↔ s.beyond := by
  rw [State.beyond, State.beyond, hchip, hpast]

theorem Lands.prog_read_other {d : List Byte} {n k : Nat}
    (hl : Lands s q (RefChip.prog a d) (fun s => s.progUnknown a n) ans u) (hwf : s.chip.mem.wf = true)
    (hb : ¬ s.beyond) (hd : d.length = n) (hk : ∀ j, j < n → k ≠ progTarget a.toNat j) :
    u.chip.mem.read k = s.chip.mem.read k := by
  have hkeeps := hl.chip_keeps (P := fun c => c.mem.wf = true ∧ c.mem.read k = s.chip.mem.read k) ⟨hwf, rfl⟩
    (fun c hc => ⟨progBytes_wf hc.1 _ _ _,
      (progBytes_read_other hc.1 fun j hj => by rw [Nat.zero_add]; exact hk j (hd ▸ hj)).trans hc.2⟩)
    (fun v hchip hpast hc => ⟨State.progUnknown_wf hc.1 _ _,
      (State.progUnknown_read_other hc.1 (by rwa [State.beyond_congr hchip hpast]) hk).trans hc.2⟩)
  exact hkeeps.2

theorem Lands.erase_read_other {sector k : Nat} (hn : 0 < sector)
    (hl : Lands s q (RefChip.erase sector a) (fun s => s.eraseUnknown a sector) ans u) (hwf : s.chip.mem.wf = true)
    (hb : ¬ s.beyond) (hk : k / sector ≠ a.toNat / sector) : u.chip.mem.read k = s.chip.mem.read k := by
  have hkeeps := hl.chip_keeps (P := fun c => c.mem.wf = true ∧ c.mem.read k = s.chip.mem.read k) ⟨hwf, rfl⟩
    (fun c hc => ⟨RefChip.erase_wf hc.1 _ _,
      ((RefChip.erase_read hc.1 a sector k).trans (if_neg ((sector_iff hn a.toNat k).not.mpr hk))).trans hc.2⟩)
    (fun v hchip hpast hc => ⟨State.eraseUnknown_wf hc.1 _ _,
      (State.eraseUnknown_read_other hc.1 (by rwa [State.beyond_congr hchip hpast]) hn hk).trans hc.2⟩)
  exact hkeeps.2

/-- A status read changes no cell, nor whether the chip is REFCHIP. -/
theorem Lands.status_keeps {m : Byte} (hl : Lands s q (RefChip.status m) State.busyUnknown ans u) :
    u.chip.mem = s.chip.mem ∧ (u.chip.conduct = .refchip ↔ s.chip.conduct = .refchip) := by
  refine hl.chip_keeps (P := fun c => c.mem = s.chip.mem ∧ (c.conduct = .refchip ↔ s.chip.conduct = .refchip))
    ⟨rfl, Iff.rfl⟩ (fun c hc => ?_) fun v _ _ hv => by simpa using hv
  unfold RefChip.status
  split <;> exact hc

/-! The transitions on the answer: only the end of a poll changes the chip. -/

theorem probeTaken_chip (h : probeTaken ans u = .next t) : t.chip = u.chip := by
  rcases probeTaken_cases h with ⟨e, -, rfl⟩ | ⟨r, -, -, rfl⟩ | ⟨r, -, rfl⟩ <;> rfl

theorem readTaken_chip (h : readTaken ans u = .next t) : t.chip = u.chip := by
  rcases readTaken_cases h with ⟨d, -, -, rfl⟩ | ⟨e, -, -, rfl⟩ <;> rfl

theorem writeTaken_chip (h : writeTaken ans u = .next t) : t.chip = u.chip := by
  rcases writeTaken_cases h with ⟨d, -, rfl⟩ | ⟨e, -, rfl⟩ <;> rfl

theorem eraseTaken_chip (h : eraseTaken ans u = .next t) : t.chip = u.chip := by
  rcases eraseTaken_cases h with ⟨d, -, rfl⟩ | ⟨e, -, rfl⟩ <;> rfl

theorem State.inFlightUnknown_of_refchip (h : s.chip.conduct = .refchip) : s.inFlightUnknown = s := if_pos h

theorem State.inFlightUnknown_read_other (hwf : s.chip.mem.wf = true) {k : Nat}
    (hk : s.chip.conduct = .refchip ∨ (¬ s.beyond ∧ ¬ s.inFlight k)) :
    s.inFlightUnknown.chip.mem.read k = s.chip.mem.read k := by
  rcases hk with hc | ⟨hb, hk⟩
  · rw [State.inFlightUnknown_of_refchip hc]
  · exact State.inFlightUnknown_read hwf hb hk

theorem pollTaken_read_other (h : pollTaken ans u = .next t) (hwf : u.chip.mem.wf = true) {k : Nat}
    (hk : u.chip.conduct = .refchip ∨ t.fsm ≠ .resp ∨ (¬ u.beyond ∧ ¬ u.inFlight k)) :
    t.chip.mem.read k = u.chip.mem.read k := by
  rcases pollTaken_cases h with ⟨r, -, -, rfl⟩ | ⟨r, -, -, rfl⟩ | ⟨e, -, rfl⟩
  · simp
  · unfold State.pollAgain at hk ⊢
    split at hk <;> rename_i hctr
    · rw [if_pos hctr]
      exact State.inFlightUnknown_read_other (s := { u with ctr := u.ctr - 1#32 }) hwf
        (hk.imp_right (Or.resolve_left · (by simp)))
    · rw [if_neg hctr]
  · exact State.inFlightUnknown_read_other hwf (hk.imp_right (Or.resolve_left · (by simp)))

/-! Frame by frame. -/

theorem exec_ident_keeps_chip (hx : s.x = some q) (h : exec .ident s = .next t) : t.chip = s.chip := by
  rw [exec, execIdent] at h
  obtain rfl | ⟨ans, u, hl, ht⟩ := frameStep_lands hx h
  · rfl
  · exact (probeTaken_chip ht).trans (hl.chip_of_reading fun _ => rfl)

theorem exec_fread_keeps_chip (hx : s.x = some q) (h : exec (.fread a) s = .next t) : t.chip = s.chip := by
  rw [exec, execFread] at h
  obtain rfl | ⟨ans, u, hl, ht⟩ := frameStep_lands hx h
  · rfl
  · exact (readTaken_chip ht).trans (hl.chip_of_reading fun _ => rfl)

theorem exec_rdsr_read_other (hx : s.x = some q) (hwf : s.chip.mem.wf = true) (h : exec .rdsr s = .next t) {k : Nat}
    (hk : s.chip.conduct = .refchip ∨ t.fsm ≠ .resp ∨ (¬ s.beyond ∧ ¬ s.inFlight k)) :
    t.chip.mem.read k = s.chip.mem.read k := by
  rw [exec, execRdsr] at h
  obtain rfl | ⟨ans, u, hl, ht⟩ := frameStep_lands hx h
  · rfl
  obtain ⟨hmem, hconduct⟩ := hl.status_keeps
  obtain ⟨rest, c, n, rfl, -⟩ := hl.eq_withChip busyUnknown_eq
  simp only [State.withChip_chip] at hmem hconduct
  rw [pollTaken_read_other ht (by simpa [hmem] using hwf), State.withChip_chip, hmem]
  have hflight : ((s.landed rest).withChip c n).inFlight k ↔ s.inFlight k := Iff.rfl
  simpa [State.beyond, hconduct, hflight] using hk

theorem exec_prog_read_other (hx : s.x = some q) (hwf : s.chip.mem.wf = true) (h : exec (.prog a) s = .next t)
    (hb : ¬ s.beyond) (hd : q.wdata.length = q.n.toNat) {k : Nat}
    (hk : ∀ j, j < q.n.toNat → k ≠ progTarget a.toNat j) : t.chip.mem.read k = s.chip.mem.read k := by
  rw [exec, execProg] at h
  obtain rfl | ⟨ans, u, hl, ht⟩ := frameStep_lands hx h
  · rfl
  · rw [writeTaken_chip ht, hl.prog_read_other hwf hb hd hk]

theorem exec_erase4k_read_other (hx : s.x = some q) (hwf : s.chip.mem.wf = true) (h : exec (.erase4k a) s = .next t)
    (hb : ¬ s.beyond) {k : Nat} (hk : k / 4096 ≠ a.toNat / 4096) : t.chip.mem.read k = s.chip.mem.read k := by
  rw [exec, execErase4k] at h
  obtain rfl | ⟨ans, u, hl, ht⟩ := frameStep_lands hx h
  · rfl
  · rw [eraseTaken_chip ht, hl.erase_read_other (by decide) hwf hb hk]

theorem exec_erase64k_read_other (hx : s.x = some q) (hwf : s.chip.mem.wf = true)
    (h : exec (.erase64k a) s = .next t) (hb : ¬ s.beyond) {k : Nat} (hk : k / 65536 ≠ a.toNat / 65536) :
    t.chip.mem.read k = s.chip.mem.read k := by
  rw [exec, execErase64k] at h
  obtain rfl | ⟨ans, u, hl, ht⟩ := frameStep_lands hx h
  · rfl
  · rw [eraseTaken_chip ht, hl.erase_read_other (by decide) hwf hb hk]

/-- FREAD stores to the chunk's bytes of OUT_BUF only, whatever the answer (R143, R144). -/
theorem exec_fread_outBuf_other (hx : s.x = some q) (hwf : s.outBuf.wf = true) (h : exec (.fread a) s = .next t)
    (hdir : q.dir = .rd) (hn : q.n = s.chunk) {k : Nat}
    (hk : k < s.idx.toNat ∨ s.idx.toNat + s.chunk.toNat ≤ k) :
    t.outBuf.cells.read k = s.outBuf.cells.read k := by
  rw [exec, execFread] at h
  obtain rfl | ⟨ans, u, hl, ht⟩ := frameStep_lands hx h
  · rfl
  have hread (d : List Byte) (hd : d.length = s.chunk.toNat) :
      (s.outBuf.cells.writeBytes s.idx.toNat d).read k = s.outBuf.cells.read k :=
    (Memory.read_writeBytes (Bool.and_eq_true_iff.mp hwf).1 _ d k).trans (if_neg (by omega))
  have hlen {d : List Byte} (hans : ans = .ok d) : d.length = s.chunk.toNat := by
    rw [hl.length hans, Xfer.answerLength_of_rd hdir, hn]
  obtain ⟨rest, c, n, rfl, -⟩ := hl.eq_withChip id_eq_withChip
  rcases readTaken_cases ht with ⟨d, rfl, -, rfl⟩ | ⟨e, rfl, -, rfl⟩
  · exact hread d (hlen rfl)
  · exact hread _ (freeBytes_length _ _)

/-- An instruction other than FREAD stores to no byte of OUT_BUF. -/
theorem exec_keeps_outBuf {i : Instr} (hx : s.x ≠ none) (h : exec i s = .next t) (hi : ∀ a, i ≠ .fread a) :
    t.outBuf = s.outBuf := by
  cases hlevel : i.level with
  | commandFrame => exact (exec_completion_keeps hlevel hx h).outBuf.resolve_left fun ⟨a, ha⟩ => hi a ha
  | hostCommand =>
    cases i with
    | init o l | read o l | write o l | erase o l =>
      obtain ⟨-, ⟨-, -, hout, -⟩, -⟩ := hostCommandFrame s t _ o l (by simp) h
      exact hout
    | _ => cases hlevel

/-- Settles O39, frame by frame. -/
theorem frameCompletionStoresOnlyItsBytes : Obligations.FrameCompletionStoresOnlyItsBytes := by
  intro s t i q hx hwf hout hd h
  refine ⟨?_, ?_, ?_, ?_, ?_, ?_, fun hi k => by rw [exec_keeps_outBuf (by simp [hx]) h hi]⟩
  · rintro (rfl | ⟨a, rfl⟩) k
    · rw [exec_ident_keeps_chip hx h]
    · rw [exec_fread_keeps_chip hx h]
  · rintro rfl k hk
    exact exec_rdsr_read_other hx hwf h hk
  · rintro hb a rfl hdir k hk
    exact exec_prog_read_other hx hwf h hb (by simpa [hdir] using hd) hk
  · rintro hb a rfl k hk
    exact exec_erase4k_read_other hx hwf h hb hk
  · rintro hb a rfl k hk
    exact exec_erase64k_read_other hx hwf h hb hk
  · rintro a rfl hdir hn k hk
    exact exec_fread_outBuf_other hx hout h hdir hn hk

end Sys2Proof.Machine
end

section
/-! PROOF. The poll as the only barrier (R51), and the bytes of a frame's address (R77). -/

namespace Sys2Proof.Machine

variable {s t u : State} {ans : Answer}

theorem ready_ok_of_loop_head (h : pollTaken ans u = .next t) (ht : t.fsm = .wrNext ∨ t.fsm = .erNext) :
    ∃ r, ans = .ok r ∧ ready u.cfg u.pclass (statusByte r) = true ∧ t = u.pollDone := by
  rcases pollTaken_cases h with hdone | ⟨r, -, -, rfl⟩ | ⟨e, -, rfl⟩
  · exact hdone
  · rcases State.pollAgain_fsm (u := u) with hf | hf <;> simp [hf] at ht
  · simp at ht

/-- Done leads to the loop head of its own class. -/
theorem State.pollDone_class (u : State) :
    (u.pollDone.fsm = .wrNext → u.pclass = .program) ∧ (u.pollDone.fsm = .erNext → u.pclass = .erase) := by
  cases hc : u.pclass <;> simp [State.pollDone, hc]

theorem RefChip.status_byte {m b : Byte} {c : RefChip} (h : (c.status m).1 = .ok [b]) :
    (c.busyn = 0 → b = 0) ∧ (c.busyn ≠ 0 → b = m) := by
  unfold RefChip.status at h
  split at h <;> cases h
  · exact ⟨fun h0 => by omega, fun _ => rfl⟩
  · exact ⟨fun _ => rfl, fun h0 => by omega⟩

/-- The end of a status read that leads to a loop head: Done of the class, on a ready status byte. -/
theorem Lands.done_of_loop_head {q : Xfer} (hq : q = rdsrRequest s.cfg)
    (hl : Lands s q (RefChip.status s.cfg.busyMask) State.busyUnknown ans u) (h : pollTaken ans u = .next t)
    (ht : t.fsm = .wrNext ∨ t.fsm = .erNext) :
    (t.fsm = .wrNext → s.pclass = .program) ∧ (t.fsm = .erNext → s.pclass = .erase) ∧
      ∃ b : Byte, ready s.cfg s.pclass b = true ∧
        (s.replies = .answer (.ok [b]) :: t.replies ∨
          (s.asksChip t.replies ∧
            (s.chipFixed → (s.chip.busyn = 0 → b = 0) ∧ (s.chip.busyn ≠ 0 → b = s.cfg.busyMask)))) := by
  obtain ⟨r, rfl, hready, rfl⟩ := ready_ok_of_loop_head h ht
  have hlen : r.length = 1 := by rw [hl.length rfl, hq]; rfl
  obtain ⟨b, rfl⟩ := List.length_eq_one_iff.mp hlen
  obtain ⟨rest, c, n, rfl, hr⟩ := hl.eq_withChip busyUnknown_eq
  obtain ⟨hprogram, herase⟩ := State.pollDone_class ((s.landed rest).withChip c n)
  refine ⟨hprogram, herase, b, hready, ?_⟩
  rw [State.pollDone_replies]
  exact hr.imp_right fun hask => ⟨hask, fun hfix => RefChip.status_byte (hl.refchip_answer hask hfix).symm⟩

/-- Settles O45: in these states the transition is the end of a transfer or the issue of a status read. -/
theorem onlyStatusReadsUntilThePollEnds : Obligations.OnlyStatusReadsUntilThePollEnds := by
  intro s t h hs
  cases step_transition h with
  | silent rest hf hr =>
    refine ⟨.inl rfl, fun ht => ?_⟩
    rcases ht with ht | ht <;> simp [ht] at hs
  | writeTake q addr ans u _ hf hx hq hl ht =>
    refine ⟨.inl (hl.keeps (.prog addr) (progUnknown_eq _ _) ht).trace, fun hhead => ?_⟩
    rcases writeTaken_fsm ht with hf | hf <;> simp [hf] at hhead
  | erase4kTake q addr ans u _ hf hx hq hl ht =>
    refine ⟨.inl (hl.keeps (.erase4k addr) (eraseUnknown_eq _ _) ht).trace, fun hhead => ?_⟩
    rcases eraseTaken_fsm ht with hf | hf <;> simp [hf] at hhead
  | erase64kTake q addr ans u _ hf hx hq hl ht =>
    refine ⟨.inl (hl.keeps (.erase64k addr) (eraseUnknown_eq _ _) ht).trace, fun hhead => ?_⟩
    rcases eraseTaken_fsm ht with hf | hf <;> simp [hf] at hhead
  | pollIssue hf hx => exact ⟨.inr rfl, by simp⟩
  | pollTake q ans u _ hf hx hq hl ht =>
    refine ⟨.inl (hl.keeps .rdsr busyUnknown_eq ht).trace, fun hhead => ⟨hf, ?_⟩⟩
    have hq : q = rdsrRequest s.cfg := by simpa [hf, hx] using hs
    exact hl.done_of_loop_head hq ht hhead
  -- every other transition starts in another state of the sequencer
  | _ => simp_all

end Sys2Proof.Machine

namespace Sys2Proof

theorem addrHigh_toNat (a : Addr) : (addrHigh a).toNat = a.toNat / 65536 := by
  have := a.isLt
  simp only [addrHigh, BitVec.extractLsb'_toNat, Nat.shiftRight_eq_div_pow]
  omega

theorem addrMid_toNat (a : Addr) : (addrMid a).toNat = a.toNat / 256 % 256 := by
  simp only [addrMid, BitVec.extractLsb'_toNat, Nat.shiftRight_eq_div_pow]

theorem addrLow_toNat (a : Addr) : (addrLow a).toNat = a.toNat % 256 := by
  simp only [addrLow, BitVec.extractLsb'_toNat, Nat.shiftRight_eq_div_pow]
  omega

/-- Three address bytes read back big-endian (R77). -/
theorem addr_bigEndian (a : Addr) :
    a.toNat = (addrHigh a).toNat * 65536 + (addrMid a).toNat * 256 + (addrLow a).toNat := by
  rw [addrHigh_toNat, addrMid_toNat, addrLow_toNat]
  omega

theorem addr_eq_of_bytes_eq {a a' : Addr} (hh : addrHigh a = addrHigh a') (hm : addrMid a = addrMid a')
    (hl : addrLow a = addrLow a') : a = a' := by
  rw [← joinAddr_addrBytes a, hh, hm, hl, joinAddr_addrBytes]

/-- Settles O51: an address is its three bytes. -/
theorem frameAddressIsBigEndianAndInjective : Obligations.FrameAddressIsBigEndianAndInjective := by
  refine fun opc d a a' => ⟨fun h => ?_, fun h => ?_, addr_bigEndian a, addr_bigEndian a, rfl, rfl, rfl⟩
  · simp only [enc4, List.cons.injEq, true_and, and_true] at h
    obtain ⟨hhigh, hmid, hlow⟩ := h
    exact addr_eq_of_bytes_eq hhigh hmid hlow
  · simp only [enc5, List.cons.injEq, true_and, and_true] at h
    obtain ⟨hhigh, hmid, hlow⟩ := h
    exact addr_eq_of_bytes_eq hhigh hmid hlow

end Sys2Proof
end

section
/-! PROOF. Outside IDLE no operation reads or writes the command port (R52, R233): every one of them commutes with a
change of the host's commands. -/

namespace Sys2Proof.Machine

variable {s : State} {l : List HostCmd}

/-- The state with other commands at the command port. -/
def State.withCmds (s : State) (l : List HostCmd) : State := { s with cmds := l }

/-- An outcome with other commands in its next state. -/
def outWithCmds (l : List HostCmd) : Out → Out := mapNext fun t => t.withCmds l

@[simp] theorem State.withCmds_cfg : (s.withCmds l).cfg = s.cfg := rfl
@[simp] theorem State.withCmds_g : (s.withCmds l).g = s.g := rfl
@[simp] theorem State.withCmds_cur : (s.withCmds l).cur = s.cur := rfl
@[simp] theorem State.withCmds_rem : (s.withCmds l).rem = s.rem := rfl
@[simp] theorem State.withCmds_idx : (s.withCmds l).idx = s.idx := rfl
@[simp] theorem State.withCmds_chunk : (s.withCmds l).chunk = s.chunk := rfl
@[simp] theorem State.withCmds_pclass : (s.withCmds l).pclass = s.pclass := rfl
@[simp] theorem State.withCmds_ctr : (s.withCmds l).ctr = s.ctr := rfl
@[simp] theorem State.withCmds_fsm : (s.withCmds l).fsm = s.fsm := rfl
@[simp] theorem State.withCmds_x : (s.withCmds l).x = s.x := rfl
@[simp] theorem State.withCmds_inBuf : (s.withCmds l).inBuf = s.inBuf := rfl
@[simp] theorem State.withCmds_outBuf : (s.withCmds l).outBuf = s.outBuf := rfl
@[simp] theorem State.withCmds_replies : (s.withCmds l).replies = s.replies := rfl
@[simp] theorem State.withCmds_probed : (s.withCmds l).probed = s.probed := rfl

@[simp] theorem State.accept_withCmds (op : Op) (o : Addr) (n : Word) (nxt : Fsm) :
    (s.withCmds l).accept op o n nxt = (s.accept op o n nxt).withCmds l := rfl
@[simp] theorem State.acceptInit_withCmds : (s.withCmds l).acceptInit = s.acceptInit.withCmds l := rfl
@[simp] theorem State.respond_withCmds (info : Option Geometry) :
    (s.withCmds l).respond info = (s.respond info).withCmds l := rfl
@[simp] theorem State.raise_withCmds (e : Error) : (s.withCmds l).raise e = (s.raise e).withCmds l := rfl
@[simp] theorem State.issue_withCmds (wait : Fsm) (q : Xfer) :
    (s.withCmds l).issue wait q = (s.issue wait q).withCmds l := rfl
@[simp] theorem State.landed_withCmds (rest : List Reply) :
    (s.withCmds l).landed rest = (s.landed rest).withCmds l := rfl

@[simp] theorem outWithCmds_next : outWithCmds l (.next s) = .next (s.withCmds l) := rfl
@[simp] theorem outWithCmds_fault (r : Fault) : outWithCmds l (.fault r) = .fault r := rfl
@[simp] theorem outWithCmds_refused (r : Refusal) : outWithCmds l (.refused r) = .refused r := rfl

/-! The chip's side. -/

theorem State.progUnknown_withCmds (a : Addr) (n : Nat) (s : State) :
    (s.withCmds l).progUnknown a n = (s.progUnknown a n).withCmds l := by
  by_cases hb : s.beyond
  · rw [State.progUnknown, State.progUnknown, if_pos hb]
    exact if_pos hb
  · rw [State.progUnknown_near hb]
    exact State.progUnknown_near (s := s.withCmds l) hb a n

theorem State.eraseUnknown_withCmds (a : Addr) (n : Nat) (s : State) :
    (s.withCmds l).eraseUnknown a n = (s.eraseUnknown a n).withCmds l := by
  by_cases hb : s.beyond
  · rw [State.eraseUnknown, State.eraseUnknown, if_pos hb]
    exact if_pos hb
  · rw [State.eraseUnknown_near hb]
    exact State.eraseUnknown_near (s := s.withCmds l) hb a n

theorem State.inFlightUnknown_withCmds (s : State) :
    (s.withCmds l).inFlightUnknown = s.inFlightUnknown.withCmds l := by
  by_cases hc : s.chip.conduct = .refchip
  · rw [State.inFlightUnknown_of_refchip hc]
    exact State.inFlightUnknown_of_refchip hc
  · have hc' : ¬ (s.withCmds l).chip.conduct = .refchip := hc
    rw [State.inFlightUnknown, State.inFlightUnknown, if_neg hc, if_neg hc', State.withCmds_pclass]
    cases s.pclass with
    | program => exact State.progUnknown_withCmds _ _ s
    | erase => exact State.eraseUnknown_withCmds _ _ s

section
variable {q : Xfer} {does : RefChip → Answer × RefChip} {unknown : State → State} {taken : Answer → State → Out}

theorem State.chipAnswer_withCmds : (s.withCmds l).chipAnswer q does =
    ((s.chipAnswer q does).1, (s.chipAnswer q does).2.withCmds l) := by
  by_cases hf : s.chipFixed
  · rw [State.chipAnswer_fixed hf]
    exact State.chipAnswer_fixed hf
  · rw [State.chipAnswer_open hf]
    exact State.chipAnswer_open hf

theorem State.perform_withCmds (hunknown : ∀ v : State, unknown (v.withCmds l) = (unknown v).withCmds l) :
    (s.withCmds l).perform does unknown = (s.perform does unknown).withCmds l := by
  by_cases hf : s.chipFixed
  · rw [State.perform_fixed hf]
    exact State.perform_fixed hf
  · rw [State.perform_open hf, ← hunknown]
    exact State.perform_open hf

/-- The end of a transfer commutes, if its unknown effect and the transition on its answer do. -/
theorem complete_withCmds (hunknown : ∀ v : State, unknown (v.withCmds l) = (unknown v).withCmds l)
    (htaken : ∀ a (v : State), taken a (v.withCmds l) = outWithCmds l (taken a v)) :
    complete q does unknown taken (s.withCmds l) = outWithCmds l (complete q does unknown taken s) := by
  have hchip (rest : List Reply) : completeByChip q does unknown taken rest (s.withCmds l) =
      outWithCmds l (completeByChip q does unknown taken rest s) := by
    simp only [completeByChip, State.chipAnswer_withCmds, State.landed_withCmds, State.perform_withCmds hunknown,
      htaken, State.withCmds_cfg]
    rw [apply_ite (outWithCmds l)]
    rfl
  unfold complete
  simp only [State.withCmds_replies, State.withCmds_cfg, State.landed_withCmds, State.perform_withCmds hunknown,
    hunknown, htaken, hchip]
  split
  · rfl
  · rfl
  · rfl
  · rw [apply_ite (outWithCmds l)]; rfl
  · rw [apply_ite (outWithCmds l)]; rfl

end

/-! The transitions on an answer. -/

theorem probeTaken_withCmds (a : Answer) (s : State) :
    probeTaken a (s.withCmds l) = outWithCmds l (probeTaken a s) := by
  cases a with
  | err e => rfl
  | ok r =>
    simp only [probeTaken, State.withCmds_cfg]
    rw [apply_ite (outWithCmds l)]
    rfl

theorem withOutBuf_withCmds {d : List Byte} {k : State → State}
    (hk : ∀ v : State, k (v.withCmds l) = (k v).withCmds l) :
    withOutBuf (s.withCmds l) d k = outWithCmds l (withOutBuf s d k) := by
  unfold withOutBuf
  simp only [State.withCmds_outBuf, State.withCmds_idx]
  split
  · next b _ => exact congrArg Host.Outcome.next (hk { s with outBuf := b })
  · rfl

theorem readTaken_withCmds (a : Answer) (s : State) :
    readTaken a (s.withCmds l) = outWithCmds l (readTaken a s) := by
  cases a with
  | ok d => exact withOutBuf_withCmds (k := fun s => s.advance .rdNext) fun _ => rfl
  | err e =>
    exact withOutBuf_withCmds
      (k := fun s => { s with free := s.free + s.chunk.toNat }.raise (.transportError e)) fun _ => rfl

theorem writeTaken_withCmds (a : Answer) (s : State) :
    writeTaken a (s.withCmds l) = outWithCmds l (writeTaken a s) := by
  cases a <;> rfl

theorem eraseTaken_withCmds (a : Answer) (s : State) :
    eraseTaken a (s.withCmds l) = outWithCmds l (eraseTaken a s) := by
  cases a <;> rfl

theorem State.pollDone_withCmds (s : State) : (s.withCmds l).pollDone = s.pollDone.withCmds l := by
  rw [State.pollDone, State.pollDone, State.withCmds_pclass]
  cases s.pclass <;> rfl

theorem State.pollAgain_withCmds (s : State) : (s.withCmds l).pollAgain = s.pollAgain.withCmds l := by
  unfold State.pollAgain
  rw [State.withCmds_ctr, apply_ite (State.withCmds · l)]
  exact congrArg (fun v => ite _ (State.raise v _) _)
    (State.inFlightUnknown_withCmds { s with ctr := s.ctr - 1#32 })

theorem pollTaken_withCmds (a : Answer) (s : State) :
    pollTaken a (s.withCmds l) = outWithCmds l (pollTaken a s) := by
  cases a with
  | err e => simp [pollTaken, State.inFlightUnknown_withCmds]
  | ok r =>
    simp only [pollTaken, State.withCmds_cfg, State.withCmds_pclass, State.pollDone_withCmds,
      State.pollAgain_withCmds, outWithCmds_next]
    rw [apply_ite (State.withCmds · l)]

/-! The instructions and the moves. -/

/-- A frame commutes, if its issue, its unknown effect and the transition on its answer do. -/
theorem frameStep_withCmds {start wait : Fsm} {cmd : List Byte} {issueIt : State → Out}
    {does : Xfer → State → RefChip → Answer × RefChip} {unknown : Xfer → State → State} {taken : Answer → State → Out}
    (hissue : issueIt (s.withCmds l) = outWithCmds l (issueIt s)) (hdoes : ∀ q, does q (s.withCmds l) = does q s)
    (hunknown : ∀ q (v : State), unknown q (v.withCmds l) = (unknown q v).withCmds l)
    (htaken : ∀ a (v : State), taken a (v.withCmds l) = outWithCmds l (taken a v)) :
    frameStep start wait cmd issueIt (fun q s => complete q (does q s) (unknown q) taken s) (s.withCmds l) =
      outWithCmds l
        (frameStep start wait cmd issueIt (fun q s => complete q (does q s) (unknown q) taken s) s) := by
  unfold frameStep
  simp only [State.withCmds_x, State.withCmds_fsm, hissue, hdoes, complete_withCmds (hunknown _) htaken]
  split
  · rw [apply_ite (outWithCmds l)]; rfl
  · rw [apply_ite (outWithCmds l)]; rfl

theorem execIdent_withCmds (s : State) : execIdent (s.withCmds l) = outWithCmds l (execIdent s) :=
  frameStep_withCmds rfl (fun _ => rfl) (fun _ _ => rfl) probeTaken_withCmds

theorem execInit_withCmds (o : Addr) (n : Word) (s : State) :
    execInit o n (s.withCmds l) = outWithCmds l (execInit o n s) := by
  by_cases hf : s.fsm = .idle
  · by_cases hp : s.probed = true <;> simp [execInit, hf, hp, execIdent_withCmds]
  · simp [execInit, hf]

theorem execRead_withCmds (o : Addr) (n : Word) (s : State) :
    execRead o n (s.withCmds l) = outWithCmds l (execRead o n s) := by
  by_cases hf : s.fsm = .idle
  · by_cases hb : s.outBuf.size < n.toNat <;> simp [execRead, hf, hb]
  · simp [execRead, hf]

theorem execWrite_withCmds (o : Addr) (n : Word) (s : State) :
    execWrite o n (s.withCmds l) = outWithCmds l (execWrite o n s) := by
  by_cases hf : s.fsm = .idle
  · by_cases hp : s.probed = true
    · by_cases hb : s.inBuf.size < n.toNat <;> simp [execWrite, hf, hp, hb]
    · simp [execWrite, hf, hp]
  · simp [execWrite, hf]

theorem execErase_withCmds (o : Addr) (n : Word) (s : State) :
    execErase o n (s.withCmds l) = outWithCmds l (execErase o n s) := by
  by_cases hf : s.fsm = .idle
  · by_cases hp : s.probed = true <;> simp [execErase, hf, hp]
  · simp [execErase, hf]

theorem execProg_withCmds (a : Addr) (s : State) : execProg a (s.withCmds l) = outWithCmds l (execProg a s) := by
  refine frameStep_withCmds ?_ (fun _ => rfl) (fun _ => State.progUnknown_withCmds _ _) writeTaken_withCmds
  simp only [State.withCmds_inBuf, State.withCmds_idx, State.withCmds_chunk]
  cases s.inBuf.read s.idx.toNat s.chunk.toNat <;> rfl

theorem execFread_withCmds (a : Addr) (s : State) : execFread a (s.withCmds l) = outWithCmds l (execFread a s) :=
  frameStep_withCmds rfl (fun _ => rfl) (fun _ _ => rfl) readTaken_withCmds

theorem execErase4k_withCmds (a : Addr) (s : State) :
    execErase4k a (s.withCmds l) = outWithCmds l (execErase4k a s) :=
  frameStep_withCmds rfl (fun _ => rfl) (fun _ => State.eraseUnknown_withCmds _ _) eraseTaken_withCmds

theorem execErase64k_withCmds (a : Addr) (s : State) :
    execErase64k a (s.withCmds l) = outWithCmds l (execErase64k a s) :=
  frameStep_withCmds rfl (fun _ => rfl) (fun _ => State.eraseUnknown_withCmds _ _) eraseTaken_withCmds

theorem execRdsr_withCmds (s : State) : execRdsr (s.withCmds l) = outWithCmds l (execRdsr s) :=
  frameStep_withCmds rfl (fun _ => rfl) (fun _ _ => rfl) pollTaken_withCmds

theorem exec_withCmds (i : Instr) (s : State) : exec i (s.withCmds l) = outWithCmds l (exec i s) := by
  cases i with
  | init o n => exact execInit_withCmds o n s
  | read o n => exact execRead_withCmds o n s
  | write o n => exact execWrite_withCmds o n s
  | erase o n => exact execErase_withCmds o n s
  | ident => exact execIdent_withCmds s
  | fread a => exact execFread_withCmds a s
  | prog a => exact execProg_withCmds a s
  | erase4k a => exact execErase4k_withCmds a s
  | erase64k a => exact execErase64k_withCmds a s
  | rdsr => exact execRdsr_withCmds s

theorem waitMove_withCmds (s : State) :
    (waitMove (s.withCmds l)).outcome = outWithCmds l (waitMove s).outcome := by
  unfold waitMove
  simp only [State.withCmds_x, State.withCmds_cfg]
  split
  · rfl
  · split
    · exact exec_withCmds _ s
    · rfl

theorem readHead_withCmds (s : State) :
    (readHead (s.withCmds l)).outcome = outWithCmds l (readHead s).outcome := by
  unfold readHead
  rw [State.withCmds_rem]
  split
  · rfl
  · exact exec_withCmds (.fread s.cur) { s with chunk := s.readChunk }

theorem writeHead_withCmds (s : State) :
    (writeHead (s.withCmds l)).outcome = outWithCmds l (writeHead s).outcome := by
  unfold writeHead
  rw [State.withCmds_g, State.withCmds_rem]
  split
  · rfl
  split
  · rfl
  · exact exec_withCmds (.prog s.cur) { s with chunk := s.writeChunk }

theorem eraseCheck_withCmds (s : State) :
    (eraseCheck (s.withCmds l)).outcome = outWithCmds l (eraseCheck s).outcome := by
  unfold eraseCheck
  rw [State.withCmds_g, State.withCmds_cur, State.withCmds_rem]
  split
  · rfl
  split
  · rfl
  · rfl

theorem eraseHead_withCmds (s : State) :
    (eraseHead (s.withCmds l)).outcome = outWithCmds l (eraseHead s).outcome := by
  unfold eraseHead
  rw [State.withCmds_rem]
  split
  · rfl
  · exact exec_withCmds s.eraseFrame { s with chunk := s.eraseChunk }

theorem step_withCmds (hf : s.fsm ≠ .idle) : step (s.withCmds l) = outWithCmds l (step s) := by
  cases hc : s.cfg.wf
  · rw [step_of_not_wf hc]
    exact step_of_not_wf hc
  rw [step_eq hc, step_eq (s := s.withCmds l) hc]
  cases hs : s.fsm <;> simp only [sequencerMove, State.withCmds_fsm, hs]
  case idle => exact absurd hs hf
  case probeWait | rdWait | wrWait | erWait | pollWait => exact waitMove_withCmds s
  case rdNext => exact readHead_withCmds s
  case wrNext => exact writeHead_withCmds s
  case erCheck => exact eraseCheck_withCmds s
  case erNext => exact eraseHead_withCmds s
  case pollIssue => exact exec_withCmds .rdsr s
  case resp => rfl

/-- Settles O46: every move outside IDLE commutes with a change of the host's commands. -/
theorem commandPortIsIgnoredOutsideIdle : Obligations.CommandPortIsIgnoredOutsideIdle :=
  fun _ _ => step_withCmds

end Sys2Proof.Machine
end

section
/-! PROOF. The machine does not stop while the duties are kept, and waits for ever on a silent transport. In a waiting
state the invariant says which transfer is in flight and that every answer to it can be taken. -/

namespace Sys2Proof.Machine

variable {s u : State} {q : Xfer} {does : RefChip → Answer × RefChip} {unknown : State → State}
  {taken : Answer → State → Out}

/-- What the step of a waiting state is: the end of the transfer in flight, whose answer, the chip's or any that
lands, can be taken. -/
structure State.InFlight (s : State) (q : Xfer) (does : RefChip → Answer × RefChip) (unknown : State → State)
    (taken : Answer → State → Out) : Prop where
  slot : s.x = some q
  step_eq : step s = complete q does unknown taken s
  /-- the chip's answer keeps the transport's contract (R55, R60) -/
  chip_fits : s.chip.idResp.length = s.cfg.idLen → (does s.chip).1.fits s.cfg q = true
  takes : ∀ a u, Lands s q does unknown a u → ∃ t, taken a u = .next t

theorem step_in_flight {i : Instr} (hc : s.cfg.wf = true) (hw : s.fsm.waits = true) (hx : s.x = some q)
    (hd : decodeFrame s.cfg q.cmd = .ok i) : step s = exec i s := by
  obtain ⟨-, hwait⟩ := stepRunsTheDecodedInstruction
  exact hwait s q i hc hw hx hd

/-! The transitions on an answer that ask nothing of it. -/

theorem probeTaken_next (a : Answer) (u : State) : ∃ t, probeTaken a u = .next t := by
  cases a with
  | err e => exact ⟨_, rfl⟩
  | ok r =>
    simp only [probeTaken]
    split <;> exact ⟨_, rfl⟩

theorem writeTaken_next (a : Answer) (u : State) : ∃ t, writeTaken a u = .next t := by
  cases a <;> exact ⟨_, rfl⟩

theorem eraseTaken_next (a : Answer) (u : State) : ∃ t, eraseTaken a u = .next t := by
  cases a <;> exact ⟨_, rfl⟩

theorem pollTaken_next (a : Answer) (u : State) : ∃ t, pollTaken a u = .next t := by
  cases a <;> exact ⟨_, rfl⟩

theorem readTaken_next {a : Answer} (hok : ∀ d, a = .ok d → d.length = u.chunk.toNat)
    (hb : u.idx.toNat + u.chunk.toNat ≤ u.outBuf.size) : ∃ t, readTaken a u = .next t := by
  cases a with
  | ok d => exact ⟨_, readTaken_ok (by rwa [hok d rfl])⟩
  | err e => exact ⟨_, readTaken_err hb⟩

/-! The transfer in flight in each waiting state. -/

theorem identRequest_answerLength {c : Config} (h : c.wf = true) : (identRequest c).answerLength = c.idLen := by
  rcases Config.idLen_eq h with hl | hl <;> simp [Xfer.answerLength, identRequest, hl]

theorem RefChip.status_fits {c : Config} {m : Byte} {r : RefChip} :
    (r.status m).1.fits c (rdsrRequest c) = true := by
  unfold RefChip.status
  split <;> rfl

theorem State.Inv.probe_in_flight (hi : s.Inv) (hf : s.fsm = .probeWait) :
    s.InFlight (identRequest s.cfg) RefChip.identify id probeTaken := by
  obtain ⟨-, -, hx⟩ := hi.sequence.clause hf
  refine ⟨hx, ?_, fun hid => ?_, fun a u _ => probeTaken_next a u⟩
  · rw [step_in_flight hi.config (hf ▸ rfl) hx decodeFrame_frameIdent, exec_ident_in_flight hf hx rfl]
  · simp [RefChip.identify, Answer.fits, identRequest_answerLength hi.config, hid]

theorem State.Inv.read_in_flight (hi : s.Inv) (hf : s.fsm = .rdWait) :
    s.InFlight (freadRequest s.cfg s.cur s.chunk) (RefChip.fread s.cur s.chunk.toNat) id readTaken := by
  obtain ⟨⟨-, -, hb⟩, -, hchunk, -, hx⟩ := hi.sequence.clause hf
  refine ⟨hx, ?_, fun _ => ?_, fun a u hl => ?_⟩
  · rw [step_in_flight hi.config (hf ▸ rfl) hx (decodeFrame_frameRead s.cur), exec_fread_in_flight hf hx rfl]
    rfl
  · simp [RefChip.fread, Answer.fits, Xfer.answerLength, freadRequest]
  · obtain ⟨rest, c, n, rfl, -⟩ := hl.eq_withChip id_eq_withChip
    exact readTaken_next (fun d hd => hl.length hd) ((Nat.add_le_add_left hchunk _).trans hb)

theorem State.Inv.write_in_flight (hi : s.Inv) (hf : s.fsm = .wrWait) :
    ∃ d, s.InFlight (progRequest s.cfg s.cur s.chunk d) (RefChip.prog s.cur d)
      (fun s' => s'.progUnknown s.cur s.chunk.toNat) writeTaken := by
  obtain ⟨-, -, d, -, hx⟩ := hi.sequence.clause hf
  refine ⟨d, hx, ?_, fun _ => rfl, fun a u _ => writeTaken_next a u⟩
  rw [step_in_flight hi.config (hf ▸ rfl) hx (decodeFrame_frameProg s.cur), exec_prog_in_flight hf hx rfl]
  rfl

theorem State.Inv.erase_in_flight (hi : s.Inv) (hf : s.fsm = .erWait) :
    ∃ q sector, s.InFlight q (RefChip.erase sector s.cur) (fun s' => s'.eraseUnknown s.cur sector) eraseTaken := by
  obtain ⟨-, -, ⟨-, hx⟩ | ⟨-, hx⟩⟩ := hi.sequence.clause hf
  · refine ⟨erase64kRequest s.cfg s.cur, 65536, hx, ?_, fun _ => rfl, fun a u _ => eraseTaken_next a u⟩
    rw [step_in_flight hi.config (hf ▸ rfl) hx (decodeFrame_frameErase64K hi.config s.cur),
      exec_erase64k_in_flight hf hx rfl]
  · refine ⟨erase4kRequest s.cfg s.cur, 4096, hx, ?_, fun _ => rfl, fun a u _ => eraseTaken_next a u⟩
    rw [step_in_flight hi.config (hf ▸ rfl) hx (decodeFrame_frameErase4K hi.config s.cur),
      exec_erase4k_in_flight hf hx rfl]

theorem State.Inv.poll_in_flight (hi : s.Inv) (hf : s.fsm = .pollWait) :
    s.InFlight (rdsrRequest s.cfg) (RefChip.status s.cfg.busyMask) State.busyUnknown pollTaken := by
  obtain ⟨-, hx⟩ := hi.sequence.clause hf
  refine ⟨hx, ?_, fun _ => RefChip.status_fits, fun a u _ => pollTaken_next a u⟩
  rw [step_in_flight hi.config (hf ▸ rfl) hx (decodeFrame_frameRdsr hi.config), exec_rdsr_in_flight hf hx rfl]

theorem State.Inv.in_flight (hi : s.Inv) (hw : s.fsm.waits = true) :
    ∃ q does unknown taken, s.InFlight q does unknown taken := by
  cases hf : s.fsm with
  | probeWait => exact ⟨_, _, _, _, hi.probe_in_flight hf⟩
  | rdWait => exact ⟨_, _, _, _, hi.read_in_flight hf⟩
  | wrWait =>
    obtain ⟨d, hd⟩ := hi.write_in_flight hf
    exact ⟨_, _, _, _, hd⟩
  | erWait =>
    obtain ⟨q, sector, hq⟩ := hi.erase_in_flight hf
    exact ⟨_, _, _, _, hq⟩
  | pollWait => exact ⟨_, _, _, _, hi.poll_in_flight hf⟩
  | idle | rdNext | wrNext | erCheck | erNext | pollIssue | resp => simp [hf, Fsm.waits] at hw

/-! A transport that never completes (R271; log 6). -/

theorem step_silent {rest : List Reply} (hi : s.Inv) (hw : s.fsm.waits = true) (hr : s.replies = .silent :: rest) :
    step s = .next s := by
  obtain ⟨q, does, unknown, taken, hfl⟩ := hi.in_flight hw
  rw [hfl.step_eq, complete_silent hr]

/-- Settles O48, by induction on the number of steps. -/
theorem silentTransportHangsTheCommand : Obligations.SilentTransportHangsTheCommand := by
  intro s rest n hi hw hr
  induction n with
  | zero => rfl
  | succ n ih => rw [run_succ (step_silent hi hw hr), ih]

/-! A transport that keeps its contract (R55). -/

theorem State.chipAnswer_fits (hfits : (does s.chip).1.fits s.cfg q = true) :
    (s.chipAnswer q does).1.fits s.cfg q = true := by
  by_cases hfix : s.chipFixed
  · rwa [State.chipAnswer_fixed hfix]
  · rw [State.chipAnswer_open hfix]
    simp [Answer.fits]

/-- A transport that keeps its contract is silent, or its answer lands. -/
theorem lands_or_silent (hx : s.x = some q) (ht : s.transportOk)
    (hfits : s.chip.idResp.length = s.cfg.idLen → (does s.chip).1.fits s.cfg q = true) :
    (∃ rest, s.replies = .silent :: rest) ∨ ∃ a u, Lands s q does unknown a u := by
  have hok := ht q hx
  cases hr : s.replies with
  | nil =>
    simp only [hr] at hok
    exact .inr ⟨_, _, .chip [] (.inr ⟨hr, rfl⟩) (State.chipAnswer_fits (hfits hok))⟩
  | cons r rest =>
    cases r with
    | silent => exact .inl ⟨rest, rfl⟩
    | chip =>
      simp only [hr] at hok
      exact .inr ⟨_, _, .chip rest (.inl hr) (State.chipAnswer_fits (hfits hok))⟩
    | answer a =>
      cases a with
      | ok d =>
        simp only [hr] at hok
        exact .inr ⟨_, _, .ok d rest hr hok⟩
      | err e =>
        simp only [hr] at hok
        exact .inr ⟨_, _, .err e rest hr hok⟩

theorem State.InFlight.progress (hfl : s.InFlight q does unknown taken) (ht : s.transportOk) :
    ∃ t, step s = .next t := by
  rw [hfl.step_eq]
  rcases lands_or_silent hfl.slot ht hfl.chip_fits with ⟨rest, hr⟩ | ⟨a, u, hl⟩
  · exact ⟨s, complete_silent hr⟩
  · rw [complete_of_lands hl]
    exact hfl.takes a u hl

/-! The states in which no transfer is in flight. -/

theorem decodeHost_level (w : HostWord) : (decodeHost w).level = .hostCommand := by
  unfold decodeHost
  split_ifs <;> rfl

theorem idle_progress (hi : s.Inv) (hf : s.fsm = .idle) (hh : s.hostOk) : ∃ t, step s = .next t := by
  cases hc : s.cmds with
  | nil => exact ⟨s, step_idle_of_no_command hi.config hf hc⟩
  | cons c rest =>
    have hok := hh c rest hf hc
    have hx : (s.present c rest).x = none := hi.slot_empty (hf ▸ rfl)
    have hlevel := decodeHost_level c.word
    rw [step_idle_of_command hi.config hf hc]
    cases hd : decodeHost c.word with
    | init o l =>
      cases hp : s.probed with
      | true => exact ⟨_, exec_init_of_probed hf hp⟩
      | false => exact ⟨_, exec_init_of_unprobed hf hp hx⟩
    | read o l =>
      simp only [hd] at hok
      exact ⟨_, exec_read_of_idle hf hok⟩
    | write o l =>
      simp only [hd] at hok
      obtain ⟨hp, hb⟩ := hok
      exact ⟨_, exec_write_of_idle hf hp hb⟩
    | erase o l =>
      simp only [hd] at hok
      exact ⟨_, exec_erase_of_idle hf hok⟩
    | ident | fread | prog | erase4k | erase64k | rdsr => rw [hd] at hlevel; cases hlevel

theorem rdNext_progress (hi : s.Inv) (hf : s.fsm = .rdNext) : ∃ t, step s = .next t := by
  by_cases hr : s.rem = 0#32
  · exact ⟨_, step_rdNext_of_done hi.config hf hr⟩
  · exact ⟨_, step_rdNext_of_left hi.config hf (hi.slot_empty (hf ▸ rfl)) hr⟩

theorem State.Inv.writeChunk_le (hi : s.Inv) (hw : s.writing) (hr : s.rem ≠ 0#32) :
    s.writeChunk.toNat ≤ s.rem.toNat := by
  obtain ⟨-, hp, -⟩ := hw
  have hpage := State.pageSize_of_probed hi.geometry hp
  obtain ⟨-, hrem, -⟩ := State.writeChunkOk_of_writeChunk hi.config hpage hr
  exact hrem

theorem wrNext_progress (hi : s.Inv) (hf : s.fsm = .wrNext) : ∃ t, step s = .next t := by
  have hw : s.writing := hi.sequence.clause hf
  have ⟨_, hp, _, hb⟩ := hw
  have hpage := State.probed_iff.mp hp
  by_cases hr : s.rem = 0#32
  · exact ⟨_, step_wrNext_of_done hi.config hf hpage hr⟩
  · exact ⟨_, step_wrNext_of_left hi.config hf (hi.slot_empty (hf ▸ rfl)) hpage hr
      ((Nat.add_le_add_left (hi.writeChunk_le hw hr) _).trans hb)⟩

theorem State.sectorSize_ne_zero_of_probed (hg : s.g.zeroOrPopulated s.cfg) (hp : s.probed = true) :
    s.g.sectorSize ≠ 0#32 := by
  rcases State.sectorSize_of_probed hg hp with h | h <;> rw [h] <;> decide

theorem erCheck_progress (hi : s.Inv) (hf : s.fsm = .erCheck) : ∃ t, step s = .next t := by
  obtain ⟨-, hp⟩ := hi.sequence.clause hf
  have hs := State.sectorSize_ne_zero_of_probed hi.geometry hp
  cases hm : misaligned s.g.sectorSize s.cur s.rem with
  | true => exact ⟨_, step_erCheck_of_misaligned hi.config hf hs hm⟩
  | false => exact ⟨_, step_erCheck_of_aligned hi.config hf hs hm⟩

theorem erNext_progress (hi : s.Inv) (hf : s.fsm = .erNext) : ∃ t, step s = .next t := by
  by_cases hr : s.rem = 0#32
  · exact ⟨_, step_erNext_of_done hi.config hf hr⟩
  · exact ⟨_, step_erNext_of_left hi.config hf (hi.slot_empty (hf ▸ rfl)) hr⟩

/-- Settles O53, by the state of the sequencer. -/
theorem noStopWhileDutiesAreKept : Obligations.NoStopWhileDutiesAreKept := by
  intro s hi hh ht
  cases hf : s.fsm with
  | idle => exact idle_progress hi hf hh
  | probeWait | rdWait | wrWait | erWait | pollWait =>
    obtain ⟨q, does, unknown, taken, hfl⟩ := hi.in_flight (hf ▸ rfl)
    exact hfl.progress ht
  | rdNext => exact rdNext_progress hi hf
  | wrNext => exact wrNext_progress hi hf
  | erCheck => exact erCheck_progress hi hf
  | erNext => exact erNext_progress hi hf
  | pollIssue => exact ⟨_, step_pollIssue hi.config hf (hi.slot_empty (hf ▸ rfl))⟩
  | resp => exact ⟨_, step_resp hi.config hf⟩

end Sys2Proof.Machine
end

section
/-! PROOF. Every host command ends when its transfers complete (R271): each step of a command lowers a measure built
from the number of transfers that the command may still issue. -/

namespace Sys2Proof.Machine

variable {s t : State}

/-! The transfers a command needs (R145, R208, R271). -/

/-- The transfers that READ needs for `n` bytes. -/
def readTransfers (c : Config) (n : Nat) : Nat := (n + c.maxXfer.toNat - 1) / c.maxXfer.toNat

/-- The transfers that WRITE makes at most for `n` bytes: a PROG and its poll for each. -/
def writeTransfers (c : Config) (n : Nat) : Nat := n * (1 + c.progBudget.toNat)

/-- The transfers that ERASE makes at most for `n` bytes: an erase frame and its poll for each sector. -/
def State.eraseTransfers (s : State) (n : Nat) : Nat :=
  n / s.g.sectorSize.toNat * (1 + s.cfg.eraseBudget.toNat)

theorem readTransfers_chunk {c : Config} {n : Nat} (hm : 1 ≤ c.maxXfer.toNat) (hn : 1 ≤ n) :
    readTransfers c (n - min n c.maxXfer.toNat) + 1 = readTransfers c n := by
  unfold readTransfers
  generalize c.maxXfer.toNat = m at hm
  rcases Nat.le_total n m with h | h
  · have hone : (n + m - 1) / m = 1 := Nat.div_eq_of_lt_le (by omega) (by omega)
    rw [Nat.min_eq_left h, Nat.div_eq_of_lt (by omega), hone]
  · rw [Nat.min_eq_right h, ← Nat.add_div_right _ (by omega)]
    congr 1
    omega

theorem writeTransfers_chunk {c : Config} {n k : Nat} (hk : 1 ≤ k) (hn : k ≤ n) :
    writeTransfers c (n - k) + c.progBudget.toNat + 1 ≤ writeTransfers c n := by
  have hmono : (n - k + 1) * (1 + c.progBudget.toNat) ≤ writeTransfers c n := Nat.mul_le_mul_right _ (by omega)
  rw [Nat.add_mul] at hmono
  unfold writeTransfers at *
  omega

theorem State.eraseTransfers_chunk {n : Nat} (hs : 0 < s.g.sectorSize.toNat) (hn : s.g.sectorSize.toNat ≤ n) :
    s.eraseTransfers (n - s.g.sectorSize.toNat) + s.cfg.eraseBudget.toNat + 1 = s.eraseTransfers n := by
  unfold State.eraseTransfers
  rw [Nat.div_eq_sub_div hs hn, Nat.add_mul]
  omega

/-- The transfers that come after a poll. -/
def State.transfersAfterPoll (s : State) : Nat :=
  match s.pclass with
  | .program => writeTransfers s.cfg (s.rem.toNat - s.chunk.toNat)
  | .erase => s.eraseTransfers (s.rem.toNat - s.chunk.toNat)

/-- How many transfers the command in progress may still issue. -/
def State.transfersLeft (s : State) : Nat :=
  match s.fsm with
  | .idle | .probeWait | .resp => 0
  | .rdNext => readTransfers s.cfg s.rem.toNat
  | .rdWait => readTransfers s.cfg (s.rem.toNat - s.chunk.toNat)
  | .wrNext => writeTransfers s.cfg s.rem.toNat
  | .wrWait => writeTransfers s.cfg (s.rem.toNat - s.chunk.toNat) + s.cfg.progBudget.toNat
  | .erCheck | .erNext => s.eraseTransfers s.rem.toNat
  | .erWait => s.eraseTransfers (s.rem.toNat - s.chunk.toNat) + s.cfg.eraseBudget.toNat
  | .pollIssue => s.transfersAfterPoll + s.ctr.toNat
  | .pollWait => s.transfersAfterPoll + (s.ctr.toNat - 1)

/-- How far a state of the sequencer is from the end of its command, between two issues. -/
def Fsm.rank : Fsm → Nat
  | .idle => 0
  | .resp => 1
  | .rdNext | .wrNext | .erNext | .pollIssue => 2
  | .probeWait | .rdWait | .wrWait | .erCheck | .erWait | .pollWait => 3

/-- The measure of a command: an issue may raise the rank by one, and uses up a transfer. -/
def State.stepsLeft (s : State) : Nat := 3 * s.transfersLeft + s.fsm.rank

/-- One step of a command that does not end it: nothing is taken from the command port, no result is taken, no request
withdrawn, and the measure goes down. -/
structure Advances (s t : State) : Prop where
  busy : t.fsm ≠ .idle
  results : t.results = s.results
  cmds : t.cmds = s.cmds
  trace : s.trace <+: t.trace
  transfers : t.trace.length + t.transfersLeft ≤ s.trace.length + s.transfersLeft
  fewer : t.stepsLeft < s.stepsLeft

theorem Advances.of_rank (hbusy : t.fsm ≠ .idle) (hresults : t.results = s.results) (hcmds : t.cmds = s.cmds)
    (htrace : t.trace = s.trace) (hleft : t.transfersLeft ≤ s.transfersLeft) (hrank : t.fsm.rank < s.fsm.rank) :
    Advances s t where
  busy := hbusy
  results := hresults
  cmds := hcmds
  trace := ⟨[], by simp [htrace]⟩
  transfers := by rw [htrace]; omega
  fewer := by unfold State.stepsLeft; omega

/-- The end of a transfer leads to the next loop head, the poll or the end of the command. -/
theorem Advances.of_completion {i : Instr} (hk : CompletionKeeps i s t) (hw : s.fsm.rank = 3)
    (ht : t.fsm = .rdNext ∨ t.fsm = .wrNext ∨ t.fsm = .erNext ∨ t.fsm = .pollIssue ∨ t.fsm = .resp)
    (hleft : t.transfersLeft ≤ s.transfersLeft) : Advances s t := by
  have hrank : 1 ≤ t.fsm.rank ∧ t.fsm.rank ≤ 2 := by rcases ht with h | h | h | h | h <;> simp [h, Fsm.rank]
  exact .of_rank (fun h => by simp [h, Fsm.rank] at hrank) hk.results hk.cmds hk.trace hleft (by omega)

theorem Advances.of_issue {u : State} {wait : Fsm} {q : Xfer} (hresults : u.results = s.results)
    (hcmds : u.cmds = s.cmds) (htrace : u.trace = s.trace) (hs : s.fsm.rank = 2) (hw : wait.rank = 3)
    (hleft : (u.issue wait q).transfersLeft + 1 ≤ s.transfersLeft) : Advances s (u.issue wait q) where
  busy := by rintro h; simp only [State.issue_fsm] at h; simp [h, Fsm.rank] at hw
  results := hresults
  cmds := hcmds
  trace := by simp [htrace]
  transfers := by simp [htrace]; omega
  fewer := by unfold State.stepsLeft; simp only [State.issue_fsm]; omega

theorem transfersLeft_of_resp (h : s.fsm = .resp) : s.transfersLeft = 0 := by simp [State.transfersLeft, h]

@[simp] theorem State.respond_transfersLeft (info : Option Geometry) : (s.respond info).transfersLeft = 0 := rfl
@[simp] theorem State.raise_transfersLeft (e : Error) : (s.raise e).transfersLeft = 0 := rfl

theorem Advances.of_respond (hs : 2 ≤ s.fsm.rank) (info : Option Geometry) : Advances s (s.respond info) :=
  .of_rank nofun rfl rfl rfl (by simp) hs

theorem Advances.of_raise (hs : 2 ≤ s.fsm.rank) (e : Error) : Advances s (s.raise e) :=
  .of_rank nofun rfl rfl rfl (by simp) hs

/-! The loop heads. -/

theorem readIssue_advances (hc : s.cfg.wf = true) (hf : s.fsm = .rdNext) (hr : s.rem ≠ 0#32) :
    Advances s ({ s with chunk := s.readChunk }.issue .rdWait (freadRequest s.cfg s.cur s.readChunk)) := by
  refine .of_issue rfl rfl rfl (by simp [hf, Fsm.rank]) rfl ?_
  have hcount := readTransfers_chunk (Config.maxXfer_pos hc) (one_le_toNat_of_ne_zero hr)
  simpa [State.transfersLeft, hf, State.readChunk_toNat] using hcount.le

theorem writeIssue_advances (hi : s.Inv) (hf : s.fsm = .wrNext) (hr : s.rem ≠ 0#32) (d : List Byte) :
    Advances s ({ s with chunk := s.writeChunk }.issue .wrWait (progRequest s.cfg s.cur s.writeChunk d)) := by
  refine .of_issue rfl rfl rfl (by simp [hf, Fsm.rank]) rfl ?_
  obtain ⟨-, hp, -⟩ : s.writing := hi.sequence.clause hf
  obtain ⟨hpos, hrem, -⟩ :=
    State.writeChunkOk_of_writeChunk hi.config (State.pageSize_of_probed hi.geometry hp) hr
  simpa [State.transfersLeft, hf] using writeTransfers_chunk (c := s.cfg) hpos hrem

/-- What ERASE has left is a number of whole sectors. -/
theorem State.erasing.sector_le (h : s.erasing) (hr : s.rem ≠ 0#32) : s.g.sectorSize.toNat ≤ s.rem.toNat := by
  obtain ⟨-, -, hm⟩ := h
  obtain ⟨-, hrem⟩ := misaligned_eq_false_iff.mp hm
  exact Nat.le_of_dvd (one_le_toNat_of_ne_zero hr) (Nat.dvd_of_mod_eq_zero hrem)

theorem eraseIssue_advances (hi : s.Inv) (hf : s.fsm = .erNext) (hr : s.rem ≠ 0#32) (q : Xfer) :
    Advances s ({ s with chunk := s.eraseChunk }.issue .erWait q) := by
  refine .of_issue rfl rfl rfl (by simp [hf, Fsm.rank]) rfl ?_
  have he : s.erasing := hi.sequence.clause hf
  have ⟨_, hp, _⟩ := he
  have hpos := one_le_toNat_of_ne_zero (State.sectorSize_ne_zero_of_probed hi.geometry hp)
  have hcount := State.eraseTransfers_chunk hpos (he.sector_le hr)
  simpa [State.transfersLeft, hf, State.eraseChunk, State.eraseTransfers] using hcount.le

theorem pollIssue_advances (hi : s.Inv) (hf : s.fsm = .pollIssue) :
    Advances s (s.issue .pollWait (rdsrRequest s.cfg)) := by
  refine .of_issue rfl rfl rfl (by simp [hf, Fsm.rank]) rfl ?_
  obtain ⟨hctr, -⟩ : s.polling := hi.sequence.clause hf
  have hafter : (s.issue .pollWait (rdsrRequest s.cfg)).transfersAfterPoll = s.transfersAfterPoll := rfl
  simp only [State.transfersLeft, hf, State.issue_fsm, State.issue_ctr, hafter]
  omega

/-! The transitions on an answer, from a state in which the transfer has landed. -/

section
variable {u : State} {a : Answer}

theorem sub_chunk_toNat (h : u.chunk.toNat ≤ u.rem.toNat) : (u.rem - u.chunk).toNat = u.rem.toNat - u.chunk.toNat :=
  BitVec.toNat_sub_of_le h

theorem readTaken_transfersLeft (hf : u.fsm = .rdWait) (hn : u.chunk.toNat ≤ u.rem.toNat)
    (h : readTaken a u = .next t) : t.transfersLeft ≤ u.transfersLeft := by
  rcases readTaken_cases h with ⟨d, -, -, rfl⟩ | ⟨e, -, -, rfl⟩
  · simp [State.transfersLeft, hf, sub_chunk_toNat hn]
  · simp

theorem writeTaken_transfersLeft (hf : u.fsm = .wrWait) (h : writeTaken a u = .next t) :
    t.transfersLeft ≤ u.transfersLeft := by
  rcases writeTaken_cases h with ⟨d, -, rfl⟩ | ⟨e, -, rfl⟩
  · simp [State.transfersLeft, State.transfersAfterPoll, hf]
  · simp

theorem eraseTaken_transfersLeft (hf : u.fsm = .erWait) (h : eraseTaken a u = .next t) :
    t.transfersLeft ≤ u.transfersLeft := by
  rcases eraseTaken_cases h with ⟨d, -, rfl⟩ | ⟨e, -, rfl⟩
  · simp [State.transfersLeft, State.transfersAfterPoll, State.eraseTransfers, hf]
  · simp

theorem State.polling.chunk_le (h : u.polling) : u.chunk.toNat ≤ u.rem.toNat := by
  cases hp : u.pclass with
  | program =>
    obtain ⟨-, -, hchunk, -⟩ := h.program hp
    exact hchunk
  | erase =>
    obtain ⟨he, hr, hchunk⟩ := h.erase hp
    exact hchunk ▸ he.sector_le hr

theorem pollDone_transfersLeft (hf : u.fsm = .pollWait) (hp : u.polling) :
    u.pollDone.transfersLeft ≤ u.transfersLeft := by
  have hsub := sub_chunk_toNat hp.chunk_le
  cases hc : u.pclass <;>
    simp [State.pollDone, hc, State.transfersLeft, State.transfersAfterPoll, State.eraseTransfers, hf, hsub]

theorem pollAgain_transfersLeft (hf : u.fsm = .pollWait) (hp : u.polling) :
    u.pollAgain.transfersLeft ≤ u.transfersLeft := by
  obtain ⟨hctr, -⟩ := hp
  have hsub : (u.ctr - 1#32).toNat = u.ctr.toNat - 1 := BitVec.toNat_sub_of_le hctr
  unfold State.pollAgain
  split
  · simp
  · simp [State.transfersLeft, State.transfersAfterPoll, State.eraseTransfers, hf, hsub]

theorem pollTaken_transfersLeft (hf : u.fsm = .pollWait) (hp : u.polling) (h : pollTaken a u = .next t) :
    t.transfersLeft ≤ u.transfersLeft := by
  rcases pollTaken_cases h with ⟨r, -, -, rfl⟩ | ⟨r, -, -, rfl⟩ | ⟨e, -, rfl⟩
  · exact pollDone_transfersLeft hf hp
  · exact pollAgain_transfersLeft hf hp
  · simp

end

/-! Every transition. -/

theorem Transition.advances (h : Transition s t) (hi : s.Inv) (hidle : s.fsm ≠ .idle) (hresp : s.fsm ≠ .resp)
    (hanswers : s.x ≠ none → ∀ rest, s.replies ≠ .silent :: rest) : Advances s t := by
  have hseq := hi.sequence
  cases h with
  | idle hf | initStored _ _ _ _ hf | initIssue _ _ _ _ hf | readAccept _ _ _ _ hf | writeAccept _ _ _ _ hf
  | eraseAccept _ _ _ _ hf => exact absurd hf hidle
  | take hf => exact absurd hf hresp
  | silent rest hf hr => exact absurd hr (hanswers (hi.slot.mpr hf) rest)
  | probeTake q a u _ hf hx hq hl ht =>
    have hend := probeTaken_fsm ht
    refine .of_completion (hl.keeps .ident id_eq_withChip ht) (by simp [hf, Fsm.rank]) (by simp [hend]) ?_
    simp [transfersLeft_of_resp hend]
  | readEnd hf | writeEnd hf | eraseEnd hf => exact .of_respond (by simp [hf, Fsm.rank]) none
  | readIssue hf hr hx => exact readIssue_advances hi.config hf hr
  | readTake q addr a u _ hf hx hq hl ht =>
    refine .of_completion (hl.keeps (.fread addr) id_eq_withChip ht) (by simp [hf, Fsm.rank])
      (by rcases readTaken_fsm ht with h | h <;> simp [h]) ?_
    obtain ⟨-, -, hchunk, -⟩ := hseq.clause hf
    obtain ⟨rest, c, n, rfl, -⟩ := hl.eq_withChip id_eq_withChip
    exact readTaken_transfersLeft (u := (s.landed rest).withChip c n) hf hchunk ht
  | writeIssue d hf hp hr hx hd => exact writeIssue_advances hi hf hr d
  | writeTake q addr a u _ hf hx hq hl ht =>
    refine .of_completion (hl.keeps (.prog addr) (progUnknown_eq _ _) ht) (by simp [hf, Fsm.rank])
      (by rcases writeTaken_fsm ht with h | h <;> simp [h]) ?_
    obtain ⟨rest, c, n, rfl, -⟩ := hl.eq_withChip (progUnknown_eq _ _)
    exact writeTaken_transfersLeft (u := (s.landed rest).withChip c n) hf ht
  | eraseReject hf hs hm => exact .of_raise (by simp [hf, Fsm.rank]) _
  | eraseStart hf hs hm =>
    exact .of_rank nofun rfl rfl rfl (by simp [State.transfersLeft, State.eraseTransfers, hf]) (by simp [hf, Fsm.rank])
  | eraseIssue64k hf hr hx hs | eraseIssue4k hf hr hx hs => exact eraseIssue_advances hi hf hr _
  | erase4kTake q addr a u _ hf hx hq hl ht | erase64kTake q addr a u _ hf hx hq hl ht =>
    -- both erase frames take the same transition on their answer
    refine .of_completion (hl.keeps (.erase4k addr) (eraseUnknown_eq _ _) ht) (by simp [hf, Fsm.rank])
      (by rcases eraseTaken_fsm ht with h | h <;> simp [h]) ?_
    obtain ⟨rest, c, n, rfl, -⟩ := hl.eq_withChip (eraseUnknown_eq _ _)
    exact eraseTaken_transfersLeft (u := (s.landed rest).withChip c n) hf ht
  | pollIssue hf hx => exact pollIssue_advances hi hf
  | pollTake q a u _ hf hx hq hl ht =>
    refine .of_completion (hl.keeps .rdsr busyUnknown_eq ht) (by simp [hf, Fsm.rank])
      (by rcases pollTaken_fsm ht with h | h | h | h <;> simp [h]) ?_
    obtain ⟨hpolling, -⟩ := hseq.clause hf
    obtain ⟨rest, c, n, rfl, -⟩ := hl.eq_withChip busyUnknown_eq
    exact pollTaken_transfersLeft (u := (s.landed rest).withChip c n) hf hpolling ht

/-! The end of a command. -/

/-- `t` is `s` after the command in progress: FCF is idle with one more result. -/
structure CommandEnded (s t : State) : Prop where
  idle : t.fsm = .idle
  results : t.results.length = s.results.length + 1
  cmds : t.cmds = s.cmds
  trace : s.trace <+: t.trace
  transfers : t.trace.length ≤ s.trace.length + s.transfersLeft

theorem CommandEnded.of_advances {u : State} (ha : Advances s t) (h : CommandEnded t u) : CommandEnded s u where
  idle := h.idle
  results := by rw [h.results, ha.results]
  cmds := h.cmds.trans ha.cmds
  trace := ha.trace.trans h.trace
  transfers := h.transfers.trans ha.transfers

theorem CommandEnded.of_takeResult : CommandEnded s s.takeResult where
  idle := rfl
  results := by simp
  cmds := rfl
  trace := ⟨[], List.append_nil _⟩
  transfers := Nat.le_add_right _ _

theorem State.everyTransferCompletes.next (h : s.everyTransferCompletes) (hs : step s = .next t)
    (hr : t.results = s.results) : t.everyTransferCompletes :=
  fun n u hu hru => h (n + 1) u (by rw [run_succ hs, hu]) (hru.trans hr)

/-- A command ends, by induction on its measure. -/
theorem command_ends (hi : s.Inv) (hf : s.fsm ≠ .idle) (h : s.everyTransferCompletes) :
    ∃ n t, run n s = .next t ∧ CommandEnded s t := by
  induction hm : s.stepsLeft using Nat.strong_induction_on generalizing s with
  | _ m ih =>
  by_cases hresp : s.fsm = .resp
  · exact ⟨1, _, run_one (step_resp hi.config hresp), .of_takeResult⟩
  obtain ⟨htransport, hanswers⟩ := h 0 s rfl rfl
  obtain ⟨t, ht⟩ := noStopWhileDutiesAreKept s hi (fun _ _ hidle => absurd hidle hf) htransport
  have hadv := (step_transition ht).advances hi hf hresp hanswers
  obtain ⟨n, u, hu, hend⟩ := ih _ (hm ▸ hadv.fewer) (stepKeepsTheInvariant s t hi ht) hadv.busy
    (h.next ht hadv.results) rfl
  exact ⟨n + 1, u, by rw [run_succ ht, hu], .of_advances hadv hend⟩

/-- Settles O58: a command ends within the transfers it has left, which R271 counts. -/
theorem everyCommandEnds : Obligations.EveryCommandEnds := by
  intro s hi hf h
  obtain ⟨n, t, ht, hend⟩ := command_ends hi hf h
  have hbound := hend.transfers
  refine ⟨n, t, ht, hend.idle, hend.results, hend.cmds, fun hs => ?_, fun hs => ?_, fun hs => ?_, fun hs => ?_⟩ <;>
    simp only [State.transfersLeft, hs] at hbound
  · exact (hend.trace.eq_of_length_le hbound).symm
  · exact hbound
  · exact hbound
  · exact hbound

end Sys2Proof.Machine
end

section
/-! PROOF. A READ chunk by chunk (R142, R143, R145): one round of its loop, and by induction over the chunks the whole
command. -/

namespace Sys2Proof.Machine

variable {s t : State}

/-! One round. -/

theorem eq_flashBytes_of_getD {m : Memory} {a : Nat} {d : List Byte}
    (h : ∀ i, i < d.length → d.getD i 0 = m.read ((a + i) % 2 ^ 24)) : d = flashBytes m a d.length := by
  refine List.ext_getElem (by simp) fun i hi hi' => ?_
  rw [← List.getD_eq_getElem d 0 hi, ← List.getD_eq_getElem _ 0 hi', h i hi, flashBytes_getD m a _ i hi]

/-- Transfer `k` of a READ, of the bytes from address `a` on, is answered with `d`: as written, or by the chip with its
cells (R61). -/
def State.answersRead (s : State) (a k : Nat) (d : List Byte) : Prop :=
  s.replies[k]? = some (.answer (.ok d)) ∨
    ((s.replies[k]? = some .chip ∨ s.replies[k]? = none) ∧ s.chipFixed ∧
      ∀ i, i < d.length → d.getD i 0 = s.chip.mem.read ((a + i) % 2 ^ 24))

theorem State.answersRead.lands {a : Addr} {q : Xfer} {d : List Byte} (h : s.answersRead a.toNat 0 d)
    (hdir : q.dir = .rd) (hd : d.length = q.n.toNat) :
    Lands s q (RefChip.fread a q.n.toNat) id (.ok d) (s.landed s.replies.tail) := by
  have hlen := Xfer.answerLength_of_rd hdir
  rcases h with hr | ⟨hr, hfix, hcells⟩
  · obtain ⟨rest, hr⟩ : ∃ rest, s.replies = .answer (.ok d) :: rest := by
      cases h : s.replies <;> simp [h] at hr
      exact ⟨_, by rw [hr]⟩
    rw [hr]
    exact lands_ok_of_reading (fun _ => rfl) hr (hd.trans hlen.symm)
  · have hask : s.asksChip s.replies.tail := by
      cases h : s.replies with
      | nil => exact .inr ⟨h, rfl⟩
      | cons r rest =>
        have hchip : r = .chip := by simpa [h] using hr
        exact .inl (by rw [h, hchip]; rfl)
    have hdoes : RefChip.fread a q.n.toNat s.chip = (.ok d, s.chip) := by
      rw [RefChip.fread, ← hd, ← eq_flashBytes_of_getD hcells]
    have hl := lands_refchip (q := q) (does := RefChip.fread a q.n.toNat) (unknown := id) hfix hask
      (by simp [hdoes, Answer.fits, hlen, hd])
    rw [hdoes] at hl
    exact hl

/-- The state after one round of READ's loop, in which the bytes `d` arrive. -/
def State.readRound (s : State) (d : List Byte) : State :=
  { ({ s with chunk := s.readChunk }.issue .rdWait (freadRequest s.cfg s.cur s.readChunk)).landed s.replies.tail with
    outBuf := { s.outBuf with cells := s.outBuf.cells.writeBytes s.idx.toNat d } }.advance .rdNext

theorem run_readRound {d : List Byte} (hc : s.cfg.wf = true) (hf : s.fsm = .rdNext) (hx : s.x = none)
    (hr : s.rem ≠ 0#32) (hb : s.idx.toNat + s.rem.toNat ≤ s.outBuf.size) (hd : d.length = s.readChunk.toNat)
    (ha : s.answersRead s.cur.toNat 0 d) : run 2 s = .next (s.readRound d) := by
  have hissue := step_rdNext_of_left hc hf hx hr
  obtain ⟨-, hrem, -⟩ := State.readChunk_bounds hc hr
  generalize hv : { s with chunk := s.readChunk }.issue .rdWait (freadRequest s.cfg s.cur s.readChunk) = v at hissue
  have hvx : v.x = some (freadRequest s.cfg s.cur s.readChunk) := by rw [← hv]; rfl
  have hvf : v.fsm = .rdWait := by rw [← hv]; rfl
  have hvc : v.cfg = s.cfg := by rw [← hv]; rfl
  have hva : v.answersRead s.cur.toNat 0 d := by rw [← hv]; exact ha
  have hl := hva.lands (q := freadRequest s.cfg s.cur s.readChunk) rfl hd
  refine run_two hissue ?_
  rw [step_in_flight (hvc ▸ hc) (hvf ▸ rfl) hvx (by rw [hvc]; exact decodeFrame_frameRead s.cur),
    exec_fread_in_flight hvf hvx (by rw [hvc]; rfl), complete_of_lands hl, readTaken_ok]
  · subst hv
    rfl
  · subst hv
    exact (Nat.add_le_add_left (hd.trans_le hrem) _).trans hb

/-! The whole command. -/

theorem State.readRound_rem (hr : s.rem ≠ 0#32) (hc : s.cfg.wf = true) (d : List Byte) :
    (s.readRound d).rem.toNat = s.rem.toNat - s.cfg.maxXfer.toNat := by
  obtain ⟨-, hrem, -⟩ := State.readChunk_bounds hc hr
  have hsub : (s.readRound d).rem.toNat = s.rem.toNat - s.readChunk.toNat := BitVec.toNat_sub_of_le hrem
  rw [hsub, State.readChunk_toNat]
  omega

theorem State.readRound_idx (hr : s.rem ≠ 0#32) (hc : s.cfg.wf = true) (hlt : s.idx.toNat + s.rem.toNat < 2 ^ 32)
    (d : List Byte) : (s.readRound d).idx.toNat = s.idx.toNat + s.readChunk.toNat := by
  obtain ⟨-, hrem, -⟩ := State.readChunk_bounds hc hr
  have hin : s.idx.toNat + s.readChunk.toNat < 2 ^ 32 := by omega
  exact BitVec.toNat_add_of_lt hin

/-- Where the chunks after the first are read from: with more to come the first is a whole `MAX_XFER`. -/
theorem State.readRound_cur {d : List Byte} (hmore : s.cfg.maxXfer.toNat < s.rem.toNat) (k i : Nat) :
    ((s.readRound d).cur.toNat + k * s.cfg.maxXfer.toNat + i) % 2 ^ 24 =
      (s.cur.toNat + (k + 1) * s.cfg.maxXfer.toNat + i) % 2 ^ 24 := by
  have hchunk := s.readChunk_toNat
  have hcur : (s.readRound d).cur.toNat = (s.cur.toNat + s.readChunk.toNat) % 2 ^ 24 := rfl
  rw [hcur, hchunk, Nat.min_eq_right hmore.le, Nat.add_mul]
  omega

theorem readTransfers_pos_iff {c : Config} {n : Nat} (hm : 1 ≤ c.maxXfer.toNat) :
    0 < readTransfers c n ↔ 0 < n := by
  unfold readTransfers
  rw [Nat.div_pos_iff]
  omega

/-- The requests of a READ of `n` bytes from `a` in `len` chunks (R145). -/
def readRequests (c : Config) (a n len : Nat) : List Xfer :=
  (List.range len).map fun k =>
    { cmd := frameRead c (BitVec.ofNat 24 (a + k * c.maxXfer.toNat))
      dir := .rd
      n := BitVec.ofNat 32 (min c.maxXfer.toNat (n - k * c.maxXfer.toNat))
      wdata := [] }

/-- The bytes `ds` fit a READ at `s`: as many chunks as it makes transfers, of its chunks' lengths, each answered. -/
structure ReadAnswered (s : State) (ds : List (List Byte)) : Prop where
  count : ds.length = readTransfers s.cfg s.rem.toNat
  lengths : ∀ k, k < ds.length →
    (ds.getD k []).length = min s.cfg.maxXfer.toNat (s.rem.toNat - k * s.cfg.maxXfer.toNat)
  answers : ∀ k, k < ds.length → s.answersRead (s.cur.toNat + k * s.cfg.maxXfer.toNat) k (ds.getD k [])

/-- `t` is the end of a READ from `s` whose chunks are `ds`. -/
structure ReadEnded (s : State) (ds : List (List Byte)) (t : State) : Prop where
  fsm : t.fsm = .resp
  res : t.res = .ok none
  replies : t.replies = s.replies.drop ds.length
  chip : t.chip = s.chip
  trace : t.trace = s.trace ++ readRequests s.cfg s.cur.toNat s.rem.toNat ds.length
  size : t.outBuf.size = s.outBuf.size
  bytes : ∀ j, t.outBuf.cells.read j =
    if s.idx.toNat ≤ j ∧ j < s.idx.toNat + s.rem.toNat then ds.flatten.getD (j - s.idx.toNat) 0
    else s.outBuf.cells.read j

theorem ReadAnswered.round {d : List Byte} {ds : List (List Byte)} (h : ReadAnswered s (d :: ds))
    (hc : s.cfg.wf = true) (hr : s.rem ≠ 0#32) : ReadAnswered (s.readRound d) ds := by
  have hm := Config.maxXfer_pos hc
  have hrem := State.readRound_rem hr hc d
  have hcount : ds.length = readTransfers s.cfg (s.rem.toNat - s.cfg.maxXfer.toNat) := by
    have hone := readTransfers_chunk hm (one_le_toNat_of_ne_zero hr)
    have hlen := h.count
    rw [List.length_cons] at hlen
    rw [show s.rem.toNat - s.cfg.maxXfer.toNat = s.rem.toNat - min s.rem.toNat s.cfg.maxXfer.toNat by omega]
    omega
  refine ⟨by rw [hrem]; exact hcount, fun k hk => ?_, fun k hk => ?_⟩
  · have hlen := h.lengths (k + 1) (Nat.succ_lt_succ hk)
    rw [List.getD_cons_succ, Nat.add_mul] at hlen
    rw [hlen, hrem]
    show _ = min s.cfg.maxXfer.toNat (_ - k * s.cfg.maxXfer.toNat)
    omega
  · have hmore : s.cfg.maxXfer.toNat < s.rem.toNat := by
      have := (readTransfers_pos_iff hm).mp (hcount ▸ Nat.zero_lt_of_lt hk)
      omega
    have hans := h.answers (k + 1) (Nat.succ_lt_succ hk)
    rw [List.getD_cons_succ] at hans
    have hreply : s.replies[k + 1]? = (s.readRound d).replies[k]? := List.getElem?_tail.symm
    rw [State.answersRead, hreply] at hans
    refine hans.imp_right fun ⟨hchip, hfix, hcells⟩ => ⟨hchip, hfix, fun i hi => (hcells i hi).trans ?_⟩
    exact congrArg s.chip.mem.read (State.readRound_cur hmore k i).symm

theorem readRequests_succ {d : List Byte} (hc : s.cfg.wf = true) (hr : s.rem ≠ 0#32) {n : Nat}
    (hn : n = readTransfers s.cfg (s.readRound d).rem.toNat) :
    readRequests s.cfg s.cur.toNat s.rem.toNat (n + 1) =
      freadRequest s.cfg s.cur s.readChunk ::
        readRequests s.cfg (s.readRound d).cur.toNat (s.readRound d).rem.toNat n := by
  have hrem := State.readRound_rem hr hc d
  rw [readRequests, List.range_succ_eq_map, List.map_cons, List.map_map]
  congr 1
  · simp [freadRequest, State.readChunk, State.maxSingleTransfer, Nat.min_comm]
  · refine List.map_congr_left fun k hk => ?_
    have hmore : s.cfg.maxXfer.toNat < s.rem.toNat := by
      have := (readTransfers_pos_iff (Config.maxXfer_pos hc)).mp (hn ▸ Nat.zero_lt_of_lt (List.mem_range.mp hk))
      omega
    have hcur := State.readRound_cur (d := d) hmore k 0
    simp only [Function.comp, Nat.succ_eq_add_one, Nat.add_zero] at hcur ⊢
    have haddr : BitVec.ofNat 24 (s.cur.toNat + (k + 1) * s.cfg.maxXfer.toNat) =
        BitVec.ofNat 24 ((s.readRound d).cur.toNat + k * s.cfg.maxXfer.toNat) := BitVec.eq_of_toNat_eq hcur.symm
    rw [haddr, hrem, Nat.add_mul, Nat.one_mul, Nat.sub_sub, Nat.add_comm s.cfg.maxXfer.toNat]

theorem ReadEnded.of_round {d : List Byte} {ds : List (List Byte)} (hc : s.cfg.wf = true) (hr : s.rem ≠ 0#32)
    (hlt : s.idx.toNat + s.rem.toNat < 2 ^ 32) (hwf : s.outBuf.cells.wf = true) (hd : d.length = s.readChunk.toNat)
    (hcount : ds.length = readTransfers s.cfg (s.readRound d).rem.toNat) (h : ReadEnded (s.readRound d) ds t) :
    ReadEnded s (d :: ds) t where
  fsm := h.fsm
  res := h.res
  replies := h.replies.trans List.drop_tail
  chip := h.chip
  trace := by
    rw [h.trace, List.length_cons, readRequests_succ hc hr hcount]
    simp [State.readRound]
  size := h.size
  bytes j := by
    have hrem := State.readRound_rem hr hc d
    have hidx := State.readRound_idx hr hc hlt d
    have hchunk := s.readChunk_toNat
    have hround : (s.readRound d).outBuf.cells.read j =
        if s.idx.toNat ≤ j ∧ j < s.idx.toNat + d.length then d.getD (j - s.idx.toNat) 0
        else s.outBuf.cells.read j := Memory.read_writeBytes hwf _ _ _
    rw [h.bytes j, hround, hidx, hrem, ← hd, List.flatten_cons]
    by_cases hfirst : s.idx.toNat ≤ j ∧ j < s.idx.toNat + d.length
    · rw [if_neg (by omega), if_pos hfirst, if_pos (by omega), List.getD_append _ _ _ _ (by omega)]
    · by_cases hrest : s.idx.toNat + d.length ≤ j ∧ j < s.idx.toNat + s.rem.toNat
      · rw [if_pos (by omega), if_pos (by omega), List.getD_append_right _ _ _ _ (by omega), Nat.sub_sub]
      · rw [if_neg (by omega), if_neg hfirst, if_neg (by omega)]

theorem ReadAnswered.rem_ne_zero_iff {ds : List (List Byte)} (h : ReadAnswered s ds) (hc : s.cfg.wf = true) :
    s.rem ≠ 0#32 ↔ 0 < ds.length := by
  rw [h.count, readTransfers_pos_iff (Config.maxXfer_pos hc)]
  refine ⟨one_le_toNat_of_ne_zero, fun hpos hr => ?_⟩
  simp [hr] at hpos

/-- A READ whose every transfer is answered, by induction over its chunks. -/
theorem read_ends {ds : List (List Byte)} (hc : s.cfg.wf = true) (hf : s.fsm = .rdNext) (hx : s.x = none)
    (hlt : s.idx.toNat + s.rem.toNat < 2 ^ 32) (hb : s.idx.toNat + s.rem.toNat ≤ s.outBuf.size)
    (hwf : s.outBuf.cells.wf = true) (h : ReadAnswered s ds) :
    ∃ t, run (2 * ds.length + 1) s = .next t ∧ ReadEnded s ds t := by
  induction ds generalizing s with
  | nil =>
    have hr : s.rem = 0#32 := by simpa using (h.rem_ne_zero_iff hc).not
    refine ⟨_, run_one (step_rdNext_of_done hc hf hr), rfl, rfl, rfl, rfl, by simp [readRequests], rfl, fun j => ?_⟩
    rw [hr]
    exact (if_neg (by simp)).symm
  | cons d ds ih =>
    have hr := (h.rem_ne_zero_iff hc).mpr (Nat.zero_lt_succ _)
    have hd : d.length = s.readChunk.toNat := by
      have hlen := h.lengths 0 (Nat.zero_lt_succ _)
      rw [State.readChunk_toNat, Nat.min_comm]
      simpa using hlen
    have ha : s.answersRead s.cur.toNat 0 d := by simpa using h.answers 0 (Nat.zero_lt_succ _)
    have hround := run_readRound hc hf hx hr hb hd ha
    have hnext := h.round hc hr
    have hrem := State.readRound_rem hr hc d
    have hidx := State.readRound_idx hr hc hlt d
    have hchunk := s.readChunk_toNat
    obtain ⟨t, ht, hend⟩ := ih (s := s.readRound d) hc rfl rfl (by omega)
      (show _ ≤ s.outBuf.size by omega) (Memory.writeBytes_wf hwf _ _) hnext
    refine ⟨t, ?_, .of_round hc hr hlt hwf hd hnext.count hend⟩
    rw [List.length_cons, show 2 * (ds.length + 1) + 1 = 2 + (2 * ds.length + 1) by omega, run_add hround, ht]

/-- Settles O55, by the induction over the chunks. -/
theorem readReassemblesItsChunks : Obligations.ReadReassemblesItsChunks := by
  intro s ds hc hf hx hlt hb hwf hcount hlengths hanswers
  obtain ⟨t, ht, hend⟩ :=
    read_ends hc hf hx hlt hb (Bool.and_eq_true_iff.mp hwf).1 ⟨hcount, hlengths, hanswers⟩
  exact ⟨t, ht, hend.fsm, hend.res, hend.replies, hend.chip, hend.trace, hend.size, hend.bytes⟩

end Sys2Proof.Machine
end

section
/-! PROOF. A poll that the chip answers, and that it ends within the budget (R60, R205, R206, R208). -/

namespace Sys2Proof.Machine

variable {s t : State}

theorem State.asksChip_tail (h : ∀ r ∈ s.replies, r = .chip) : s.asksChip s.replies.tail := by
  cases hr : s.replies with
  | nil => exact .inr ⟨hr, rfl⟩
  | cons r rest =>
    obtain rfl : r = .chip := h r (by simp [hr])
    exact .inl hr

theorem State.chipFixed_congr {u : State} (hconduct : u.chip.conduct = s.chip.conduct)
    (hpast : u.pastCapacity = s.pastCapacity) : u.chipFixed ↔ s.chipFixed := by
  rw [State.chipFixed, State.chipFixed, hconduct, hpast]

/-! REFCHIP's part of a write-class frame: the busy count is the next of the script, the conduct as before (R59). -/

@[simp] theorem RefChip.prog_conduct (a : Addr) (d : List Byte) (c : RefChip) :
    (RefChip.prog a d c).2.conduct = c.conduct := rfl
@[simp] theorem RefChip.prog_busyn (a : Addr) (d : List Byte) (c : RefChip) :
    (RefChip.prog a d c).2.busyn = c.ks.headD 0 := rfl
@[simp] theorem RefChip.prog_ks (a : Addr) (d : List Byte) (c : RefChip) :
    (RefChip.prog a d c).2.ks = c.ks.tail := rfl
@[simp] theorem RefChip.prog_mem (a : Addr) (d : List Byte) (c : RefChip) :
    (RefChip.prog a d c).2.mem = progBytes c.mem a.toNat 0 d := rfl
@[simp] theorem RefChip.erase_conduct (n : Nat) (a : Addr) (c : RefChip) :
    (RefChip.erase n a c).2.conduct = c.conduct := rfl
@[simp] theorem RefChip.erase_busyn (n : Nat) (a : Addr) (c : RefChip) :
    (RefChip.erase n a c).2.busyn = c.ks.headD 0 := rfl
@[simp] theorem RefChip.erase_ks (n : Nat) (a : Addr) (c : RefChip) :
    (RefChip.erase n a c).2.ks = c.ks.tail := rfl

/-! What the two status bytes of REFCHIP say (R60, R204). -/

theorem Config.busyMask_ne_zero {c : Config} (h : c.wf = true) : c.busyMask ≠ 0#8 := by
  have hone : oneBit c.busyMask = true := Config.constraint_of_wf h (by simp [Config.constraints])
  simp only [oneBit, Bool.and_eq_true, bne_iff_ne] at hone
  exact hone.1

theorem not_ready_busyMask {c : Config} (h : c.wf = true) (p : PollClass) : ready c p c.busyMask = false := by
  have hbusy : busyClear c c.busyMask = false := by
    simpa [busyClear] using Config.busyMask_ne_zero h
  cases p <;> simp [ready, hbusy]

theorem ready_program_zero (c : Config) : ready c .program 0 = true := by simp [ready, busyClear]

theorem ready_erase_zero {c : Config} (h : c.errExpect = 0#8) : ready c .erase 0 = true := by
  simp [ready, busyClear, errAsExpected, h]

theorem RefChip.status_of_busy {m : Byte} {c : RefChip} (h : 0 < c.busyn) :
    c.status m = (.ok [m], { c with busyn := c.busyn - 1 }) := if_pos h

theorem RefChip.status_of_idle {m : Byte} {c : RefChip} (h : c.busyn = 0) : c.status m = (.ok [0], c) :=
  if_neg (by omega)

/-! One status read, and the whole poll. -/

/-- The state after a status read that leaves the chip as `c`. -/
def State.statusRead (s : State) (c : RefChip) : State :=
  ((s.issue .pollWait (rdsrRequest s.cfg)).landed s.replies.tail).withChip c s.free

theorem run_statusRead (hc : s.cfg.wf = true) (hf : s.fsm = .pollIssue) (hx : s.x = none)
    (hr : ∀ r ∈ s.replies, r = .chip) (hfix : s.chipFixed) {d : List Byte} {c : RefChip}
    (hstatus : s.chip.status s.cfg.busyMask = (.ok d, c))
    (ht : pollTaken (.ok d) (s.statusRead c) = .next t) : run 2 s = .next t := by
  refine run_two (step_pollIssue hc hf hx) ?_
  have hstep := step_in_flight (s := s.issue .pollWait (rdsrRequest s.cfg)) hc rfl rfl (decodeFrame_frameRdsr hc)
  have hl := lands_refchip (s := s.issue .pollWait (rdsrRequest s.cfg)) (q := rdsrRequest s.cfg)
    (does := RefChip.status s.cfg.busyMask) (unknown := State.busyUnknown) hfix (State.asksChip_tail hr)
    RefChip.status_fits
  rw [State.issue_chip, hstatus] at hl
  rw [hstep, exec_rdsr_in_flight rfl rfl rfl, ← ht]
  exact complete_of_lands hl

theorem pollTaken_of_ready {r : List Byte} (h : ready s.cfg s.pclass (statusByte r) = true) :
    pollTaken (.ok r) s = .next s.pollDone :=
  congrArg Host.Outcome.next (if_pos h)

theorem pollTaken_of_budget_left {r : List Byte} (h : ready s.cfg s.pclass (statusByte r) = false)
    (hctr : s.ctr - 1#32 ≠ 0#32) :
    pollTaken (.ok r) s = .next { s with ctr := s.ctr - 1#32, fsm := .pollIssue } := by
  rw [pollTaken, h, if_neg Bool.false_ne_true, State.pollAgain, if_neg hctr]

/-- The state after a status read that finds the chip busy, with budget left. -/
def State.busyRead (s : State) : State :=
  { s.statusRead { s.chip with busyn := s.chip.busyn - 1 } with ctr := s.ctr - 1#32, fsm := .pollIssue }

theorem run_busyRead (hc : s.cfg.wf = true) (hf : s.fsm = .pollIssue) (hx : s.x = none)
    (hr : ∀ r ∈ s.replies, r = .chip) (hfix : s.chipFixed) (hbusy : 0 < s.chip.busyn) (hctr : s.ctr - 1#32 ≠ 0#32) :
    run 2 s = .next s.busyRead :=
  run_statusRead hc hf hx hr hfix (RefChip.status_of_busy hbusy)
    (pollTaken_of_budget_left (s := s.statusRead _) (not_ready_busyMask hc s.pclass) hctr)

theorem State.pollDone_of_program (h : s.pclass = .program) : s.pollDone = s.settle.advance .wrNext := by
  rw [State.pollDone, h]

theorem State.pollDone_of_erase (h : s.pclass = .erase) : s.pollDone = s.settle.advanceErase .erNext := by
  rw [State.pollDone, h]

/-- The state after a poll of `k` reads that ends with Done. -/
def State.polled (s : State) (f : FrameBuffer) (ctr : Word) (rest : List Reply) (k : Nat) : State :=
  { s with
    f := f, ctr := ctr, replies := rest, x := none, fsm := .pollWait
    trace := s.trace ++ List.replicate k (rdsrRequest s.cfg)
    chip := { s.chip with busyn := 0 } }.pollDone

/-- A poll whose budget exceeds the chip's busy count ends with Done, by induction on the busy count. -/
theorem poll_ends_with_done (hc : s.cfg.wf = true) (hf : s.fsm = .pollIssue) (hx : s.x = none)
    (hr : ∀ r ∈ s.replies, r = .chip) (hfix : s.chipFixed) (hbudget : s.chip.busyn < s.ctr.toNat)
    (hready : ready s.cfg s.pclass 0 = true) :
    ∃ n f ctr rest k, (∀ r ∈ rest, r = .chip) ∧ run n s = .next (s.polled f ctr rest k) := by
  have hrest : ∀ r ∈ s.replies.tail, r = .chip := fun r h => hr r (List.mem_of_mem_tail h)
  induction hb : s.chip.busyn generalizing s with
  | zero =>
    have htaken := pollTaken_of_ready (s := s.statusRead s.chip) (r := [0]) hready
    refine ⟨2, (s.statusRead s.chip).f, s.ctr, s.replies.tail, 1, hrest, (run_statusRead hc hf hx hr hfix
      (RefChip.status_of_idle hb) htaken).trans ?_⟩
    have hchip : { s.chip with busyn := 0 } = s.chip := by rw [← hb]
    simp [State.polled, hchip, State.statusRead, State.withChip, State.landed, State.issue]
  | succ b ih =>
    have hctr : (s.ctr - 1#32).toNat = s.ctr.toNat - 1 := BitVec.toNat_sub_of_le (show 1 ≤ s.ctr.toNat by omega)
    have hleft : s.ctr - 1#32 ≠ 0#32 := fun h0 => by simp [h0] at hctr; omega
    have hround := run_busyRead hc hf hx hr hfix (by omega) hleft
    obtain ⟨n, f, ctr, rest, k, hchips, hrun⟩ := ih (s := s.busyRead) hc rfl rfl hrest hfix
      (show s.chip.busyn - 1 < (s.ctr - 1#32).toNat by omega) hready
      (fun r h => hrest r (List.mem_of_mem_tail h)) (show s.chip.busyn - 1 = b by omega)
    refine ⟨2 + n, f, ctr, rest, 1 + k, hchips, ?_⟩
    rw [run_add hround, hrun]
    simp [State.polled, State.busyRead, State.statusRead, State.withChip, State.landed, State.issue,
      List.replicate_add]

end Sys2Proof.Machine
end

section
/-! PROOF. A WRITE chunk by chunk against a chip whose conduct is fixed (R62, R162, R166): one round of its loop, from
WR_NEXT over PROG and its poll, and by induction over what is left the whole command. -/

namespace Sys2Proof.Machine

variable {s t u : State}

theorem run_keeps_inv {n : Nat} (hi : s.Inv) (h : run n s = .next t) : t.Inv := by
  induction n generalizing s with
  | zero => cases h; exact hi
  | succ n ih =>
    simp only [run] at h
    split at h
    · next u hu => exact ih (stepKeepsTheInvariant s u hi hu) h
    · cases h
    · cases h

theorem mem_tail_lt {ks : List Nat} {b : Nat} (h : ∀ k ∈ ks, k < b) : ∀ k ∈ ks.tail, k < b :=
  fun k hk => h k (List.mem_of_mem_tail hk)

theorem headD_lt {ks : List Nat} {b : Nat} (h : ∀ k ∈ ks, k < b) (hb : 0 < b) : ks.headD 0 < b := by
  cases ks with
  | nil => exact hb
  | cons k ks => exact h k (by simp)

/-- PROG completes with `Ok`, the chip performing it. -/
theorem step_wrWait_of_chip (hi : s.Inv) (hf : s.fsm = .wrWait) (hr : ∀ r ∈ s.replies, r = .chip)
    (hfix : s.chipFixed) {d : List Byte} (hx : s.x = some (progRequest s.cfg s.cur s.chunk d)) :
    step s = .next (((s.landed s.replies.tail).withChip (RefChip.prog s.cur d s.chip).2 s.free).enterPoll
      .program s.cfg.progBudget) := by
  obtain ⟨c, n, hc, hexec⟩ := exec_prog_of_ok hf hx rfl nofun (.inr (State.asksChip_tail hr))
  obtain ⟨rfl, rfl⟩ := hc hfix
  rw [step_in_flight hi.config (hf ▸ rfl) hx (decodeFrame_frameProg s.cur), hexec]
  rfl

/-- A WRITE at its loop head, with a chip whose conduct is fixed, which answers every transfer and is never busy for a
whole budget. -/
structure WriteReady (s : State) : Prop where
  inv : s.Inv
  fsm : s.fsm = .wrNext
  replies : ∀ r ∈ s.replies, r = .chip
  fixed : s.chipFixed
  busy : ∀ k ∈ s.chip.ks, k < s.cfg.progBudget.toNat

/-- The bytes of IN_BUF that the next chunk programs (R163). -/
def State.chunkBytes (s : State) : List Byte := s.inBuf.cells.readBytes s.idx.toNat s.writeChunk.toNat

/-- `t` is `s` after one round of WRITE's loop. -/
structure WriteRound (s t : State) : Prop where
  ready : WriteReady t
  cfg : t.cfg = s.cfg
  inBuf : t.inBuf = s.inBuf
  cur : t.cur = advanceAddr s.cur s.writeChunk
  idx : t.idx = s.idx + s.writeChunk
  rem : t.rem = s.rem - s.writeChunk
  mem : t.chip.mem = progBytes s.chip.mem s.cur.toNat 0 s.chunkBytes
  trace : ∃ k, t.trace =
    s.trace ++ progRequest s.cfg s.cur s.writeChunk s.chunkBytes :: List.replicate k (rdsrRequest s.cfg)

theorem WriteReady.writing (h : WriteReady s) : s.writing := h.inv.sequence.clause h.fsm

theorem WriteReady.pageSize (h : WriteReady s) : s.g.pageSize = 256#32 := by
  obtain ⟨-, hp, -⟩ := h.writing
  exact State.pageSize_of_probed h.inv.geometry hp

theorem WriteReady.chunk_bounds (h : WriteReady s) (hr : s.rem ≠ 0#32) :
    1 ≤ s.writeChunk.toNat ∧ s.writeChunk.toNat ≤ s.rem.toNat ∧ s.cur.toNat % 256 + s.writeChunk.toNat ≤ 256 := by
  obtain ⟨hpos, hrem, -, hpage⟩ := State.writeChunkOk_of_writeChunk h.inv.config h.pageSize hr
  exact ⟨hpos, hrem, hpage⟩

/-- The state in which the poll of a chunk begins. -/
def State.programmed (s : State) : State :=
  ((({ s with chunk := s.writeChunk }.issue .wrWait (progRequest s.cfg s.cur s.writeChunk s.chunkBytes)).landed
    s.replies.tail).withChip (RefChip.prog s.cur s.chunkBytes s.chip).2 s.free).enterPoll .program s.cfg.progBudget

theorem WriteReady.run_programmed (h : WriteReady s) (hr : s.rem ≠ 0#32) : run 2 s = .next s.programmed := by
  obtain ⟨-, -, -, hb⟩ := h.writing
  obtain ⟨-, hrem, -⟩ := h.chunk_bounds hr
  have hpage : s.g.pageSize ≠ 0#32 := by rw [h.pageSize]; decide
  have hissue := step_wrNext_of_left h.inv.config h.fsm (h.inv.slot_empty (h.fsm ▸ rfl)) hpage hr
    ((Nat.add_le_add_left hrem _).trans hb)
  exact run_two hissue (step_wrWait_of_chip (stepKeepsTheInvariant s _ h.inv hissue) rfl h.replies h.fixed rfl)

theorem WriteReady.round (h : WriteReady s) (hr : s.rem ≠ 0#32) : ∃ n t, run n s = .next t ∧ WriteRound s t := by
  have hfix : s.programmed.chipFixed :=
    (State.chipFixed_congr (by simp [State.programmed]) (by simp [State.programmed])).mpr h.fixed
  obtain ⟨n, f, ctr, rest, k, hchips, hpoll⟩ := poll_ends_with_done (s := s.programmed)
    (by simpa [State.programmed] using h.inv.config) rfl rfl (fun r hmem => h.replies r (List.mem_of_mem_tail hmem))
    hfix (by simpa [State.programmed] using headD_lt h.busy (Config.progBudget_pos h.inv.config))
    (by simpa [State.programmed] using ready_program_zero s.cfg)
  have hrun := (run_add (m := n) (h.run_programmed hr)).trans hpoll
  have hinv := run_keeps_inv h.inv hrun
  rw [State.polled, State.pollDone_of_program rfl] at hrun hinv
  have hready := WriteReady.mk hinv rfl hchips
    ((State.chipFixed_congr (by simp) (by simp)).mpr (s.programmed.settle_chipFixed hfix))
    (by simpa [State.programmed] using mem_tail_lt h.busy)
  exact ⟨2 + n, _, hrun,
    { ready := hready
      cfg := by simp [State.programmed]
      inBuf := by simp [State.programmed]
      cur := by simp [State.programmed]
      idx := by simp [State.programmed]
      rem := by simp [State.programmed]
      mem := by simp [State.programmed]
      trace := ⟨k, by simp [State.programmed]⟩ }⟩

/-- `t` is the end of a WRITE from `s` to the addresses from `a` on. -/
structure WriteEnded (s : State) (a : Nat) (t : State) : Prop where
  fsm : t.fsm = .resp
  res : t.res = .ok none
  inBuf : t.inBuf = s.inBuf
  trace : ∃ more, t.trace = s.trace ++ more ∧
    progsCover s.cfg s.inBuf a s.idx.toNat s.rem.toNat (more.filter fun q => q.dir == .wr)
  region : ∀ i, i < s.rem.toNat →
    t.chip.mem.read (a + i) = s.chip.mem.read (a + i) &&& s.inBuf.cells.read (s.idx.toNat + i)
  others : ∀ k, (k < a ∨ a + s.rem.toNat ≤ k) → t.chip.mem.read k = s.chip.mem.read k

theorem progTarget_inside {a n i : Nat} (hpage : a % 256 + n ≤ 256) (hi : i < n) : progTarget a i = a + i := by
  unfold progTarget
  omega

/-- The cells after a PROG that stays inside its page. -/
theorem progBytes_read_inside {m : Memory} (h : m.wf = true) {a : Nat} {ds : List Byte}
    (hpage : a % 256 + ds.length ≤ 256) (k : Nat) :
    (progBytes m a 0 ds).read k =
      if a ≤ k ∧ k < a + ds.length then m.read k &&& ds.getD (k - a) 0 else m.read k := by
  split
  · next hk =>
    have hcell := progBytes_read_target h (a := a) (i := 0) (ds := ds) (by omega) (j := k - a) (by omega)
    rwa [Nat.zero_add, progTarget_inside hpage (by omega), Nat.add_sub_cancel' hk.1] at hcell
  · next hk =>
    refine progBytes_read_other h fun j hj => ?_
    rw [Nat.zero_add, progTarget_inside hpage hj]
    omega

theorem rdsrRequests_filter (c : Config) (k : Nat) (d : Dir) (hd : d ≠ .rd) :
    (List.replicate k (rdsrRequest c)).filter (fun q => q.dir == d) = [] := by
  rw [List.filter_replicate, if_neg]
  simpa [rdsrRequest] using hd.symm

theorem WriteEnded.of_round {a : Nat} (hs : WriteReady s) (hr : s.rem ≠ 0#32) (ha : s.cur.toNat = a)
    (h : WriteRound s t) (hend : WriteEnded t (a + s.writeChunk.toNat) u) : WriteEnded s a u := by
  obtain ⟨-, -, hlt, -⟩ := hs.writing
  obtain ⟨hpos, hrem, hpage⟩ := hs.chunk_bounds hr
  have hlen : s.chunkBytes.length = s.writeChunk.toNat := Memory.readBytes_length _ _ _
  have hidx : t.idx.toNat = s.idx.toNat + s.writeChunk.toNat := by
    rw [h.idx]
    exact BitVec.toNat_add_of_lt (by omega)
  have hleft : t.rem.toNat = s.rem.toNat - s.writeChunk.toNat := by
    rw [h.rem]
    exact BitVec.toNat_sub_of_le hrem
  have hcell (k : Nat) : t.chip.mem.read k =
      if a ≤ k ∧ k < a + s.writeChunk.toNat then s.chip.mem.read k &&& s.chunkBytes.getD (k - a) 0
      else s.chip.mem.read k := by
    rw [h.mem, ha, progBytes_read_inside hs.inv.memory.1 (by omega), hlen]
  refine ⟨hend.fsm, hend.res, hend.inBuf.trans h.inBuf, ?_, fun i hi => ?_, fun k hk => ?_⟩
  · obtain ⟨k, htrace⟩ := h.trace
    obtain ⟨more, hmore, hcover⟩ := hend.trace
    refine ⟨progRequest s.cfg s.cur s.writeChunk s.chunkBytes :: List.replicate k (rdsrRequest s.cfg) ++ more,
      by rw [hmore, htrace, List.append_assoc], ?_⟩
    rw [h.cfg, h.inBuf, hidx, hleft] at hcover
    rw [List.cons_append, List.filter_cons_of_pos (by rfl), List.filter_append,
      rdsrRequests_filter _ _ _ (by decide), List.nil_append]
    refine ⟨?_, hpos, hrem, rfl, hcover⟩
    rw [← ha, BitVec.ofNat_toNat, BitVec.setWidth_eq]
    rfl
  · by_cases hin : i < s.writeChunk.toNat
    · rw [hend.others _ (.inl (by omega)), hcell, if_pos (by omega), Nat.add_sub_cancel_left, State.chunkBytes,
        Memory.readBytes_getD _ _ _ _ hin]
    · have hregion := hend.region (i - s.writeChunk.toNat) (by omega)
      rw [hcell, if_neg (by omega), h.inBuf, hidx] at hregion
      rwa [show a + s.writeChunk.toNat + (i - s.writeChunk.toNat) = a + i by omega,
        show s.idx.toNat + s.writeChunk.toNat + (i - s.writeChunk.toNat) = s.idx.toNat + i by omega] at hregion
  · rw [hend.others k (by omega), hcell, if_neg (by omega)]

/-- A WRITE to the addresses from `a` on ends, by induction on what is left. `S.cur` is `a` until the last chunk, which
may end at `2^24` (R21). -/
theorem write_ends {a : Nat} (h : WriteReady s) (ha : s.cur = BitVec.ofNat 24 a) (hfits : a + s.rem.toNat ≤ 2 ^ 24) :
    ∃ n t, run n s = .next t ∧ WriteEnded s a t := by
  induction hm : s.rem.toNat using Nat.strong_induction_on generalizing s a with
  | _ m ih =>
  by_cases hr : s.rem = 0#32
  · have hpage : s.g.pageSize ≠ 0#32 := by rw [h.pageSize]; decide
    have hstep := step_wrNext_of_done h.inv.config h.fsm hpage hr
    refine ⟨1, _, run_one hstep, rfl, rfl, rfl, ⟨[], by simp, by simp [hr, progsCover]⟩, fun i hi => ?_, fun _ _ => rfl⟩
    simp [hr] at hi
  · have hcur : s.cur.toNat = a := by
      have := one_le_toNat_of_ne_zero hr
      rw [ha]
      exact Nat.mod_eq_of_lt (by omega)
    obtain ⟨hpos, hrem, -⟩ := h.chunk_bounds hr
    obtain ⟨n, t, ht, hround⟩ := h.round hr
    have hleft : t.rem.toNat = s.rem.toNat - s.writeChunk.toNat := by
      rw [hround.rem]
      exact BitVec.toNat_sub_of_le hrem
    obtain ⟨n', u, hu, hend⟩ := ih t.rem.toNat (by omega) hround.ready (a := a + s.writeChunk.toNat)
      (by rw [hround.cur, advanceAddr, hcur]) (by omega) rfl
    exact ⟨n + n', u, (run_add ht).trans hu, .of_round h hr hcur hround hend⟩

/-- Settles O56, by the induction over the chunks; on an erased cell the AND is the byte. -/
theorem writeProgramsExactlyItsRegion : Obligations.WriteProgramsExactlyItsRegion := by
  intro s hi hf hr hfix hks hfits
  obtain ⟨n, t, ht, hend⟩ := write_ends ⟨hi, hf, hr, hfix, hks⟩ (by simp) hfits
  refine ⟨n, t, ht, hend.fsm, hend.res, hend.inBuf, hend.trace, hend.region, fun i hin herased => ?_, hend.others⟩
  rw [hend.region i hin, herased]
  exact BitVec.allOnes_and

end Sys2Proof.Machine
end

section
/-! PROOF. An ERASE sector by sector against a chip whose conduct is fixed (R63, R184, R187): one round of its loop,
from ER_NEXT over the erase frame and its poll, and by induction over what is left the whole command. -/

namespace Sys2Proof.Machine

variable {s t u : State}

theorem eraseRequest_dir (s : State) : s.eraseRequest.dir = .none := by
  unfold State.eraseRequest
  split <;> rfl

/-- The erase frame of the sector size completes with `Ok`, the chip performing it. -/
theorem step_erWait_of_chip (hi : s.Inv) (hf : s.fsm = .erWait) (hr : ∀ r ∈ s.replies, r = .chip)
    (hfix : s.chipFixed) :
    step s = .next (((s.landed s.replies.tail).withChip
      (RefChip.erase s.g.sectorSize.toNat s.cur s.chip).2 s.free).enterPoll .erase s.cfg.eraseBudget) := by
  have hask := State.asksChip_tail hr
  obtain ⟨-, -, ⟨hsize, hx⟩ | ⟨hsize, hx⟩⟩ := hi.sequence.clause hf
  · obtain ⟨c, n, hc, hexec⟩ :=
      exec_erase_of_ok (exec_erase64k_in_flight (a := s.cur) hf hx rfl) nofun (.inr hask)
    obtain ⟨rfl, rfl⟩ := hc hfix
    rw [step_in_flight hi.config (hf ▸ rfl) hx (decodeFrame_frameErase64K hi.config s.cur), hexec,
      show s.g.sectorSize.toNat = 65536 from congrArg BitVec.toNat hsize]
  · obtain ⟨c, n, hc, hexec⟩ :=
      exec_erase_of_ok (exec_erase4k_in_flight (a := s.cur) hf hx rfl) nofun (.inr hask)
    obtain ⟨rfl, rfl⟩ := hc hfix
    rw [step_in_flight hi.config (hf ▸ rfl) hx (decodeFrame_frameErase4K hi.config s.cur), hexec,
      show s.g.sectorSize.toNat = 4096 from congrArg BitVec.toNat hsize]

/-- An ERASE at its loop head, with a chip whose conduct is fixed, which answers every transfer and is never busy for a
whole budget. -/
structure EraseReady (s : State) : Prop where
  inv : s.Inv
  fsm : s.fsm = .erNext
  replies : ∀ r ∈ s.replies, r = .chip
  fixed : s.chipFixed
  errExpect : s.cfg.errExpect = 0#8
  busy : ∀ k ∈ s.chip.ks, k < s.cfg.eraseBudget.toNat

/-- `t` is `s` after one round of ERASE's loop. -/
structure EraseRound (s t : State) : Prop where
  ready : EraseReady t
  cfg : t.cfg = s.cfg
  g : t.g = s.g
  cur : t.cur = advanceAddr s.cur s.g.sectorSize
  rem : t.rem = s.rem - s.g.sectorSize
  mem : t.chip.mem = (RefChip.erase s.g.sectorSize.toNat s.cur s.chip).2.mem
  trace : ∃ k, t.trace = s.trace ++ s.eraseRequest :: List.replicate k (rdsrRequest s.cfg)

theorem EraseReady.erasing (h : EraseReady s) : s.erasing := h.inv.sequence.clause h.fsm

/-- The state in which the poll of a sector begins. -/
def State.erased (s : State) : State :=
  ((({ s with chunk := s.eraseChunk }.issue .erWait s.eraseRequest).landed s.replies.tail).withChip
    (RefChip.erase s.g.sectorSize.toNat s.cur s.chip).2 s.free).enterPoll .erase s.cfg.eraseBudget

theorem EraseReady.run_erased (h : EraseReady s) (hr : s.rem ≠ 0#32) : run 2 s = .next s.erased := by
  have hissue := step_erNext_of_left h.inv.config h.fsm (h.inv.slot_empty (h.fsm ▸ rfl)) hr
  exact run_two hissue (step_erWait_of_chip (stepKeepsTheInvariant s _ h.inv hissue) rfl h.replies h.fixed)

theorem EraseReady.round (h : EraseReady s) (hr : s.rem ≠ 0#32) : ∃ n t, run n s = .next t ∧ EraseRound s t := by
  have hbudget := Nat.zero_lt_of_lt (Config.progBudget_lt_eraseBudget h.inv.config)
  have hfix : s.erased.chipFixed :=
    (State.chipFixed_congr (by simp [State.erased]) (by simp [State.erased])).mpr h.fixed
  obtain ⟨n, f, ctr, rest, k, hchips, hpoll⟩ := poll_ends_with_done (s := s.erased)
    (by simpa [State.erased] using h.inv.config) rfl rfl (fun r hmem => h.replies r (List.mem_of_mem_tail hmem))
    hfix (by simpa [State.erased] using headD_lt h.busy hbudget)
    (by simpa [State.erased] using ready_erase_zero h.errExpect)
  have hrun := (run_add (m := n) (h.run_erased hr)).trans hpoll
  have hinv := run_keeps_inv h.inv hrun
  rw [State.polled, State.pollDone_of_erase rfl] at hrun hinv
  have hready := EraseReady.mk hinv rfl hchips
    ((State.chipFixed_congr (by simp) (by simp)).mpr (s.erased.settle_chipFixed hfix))
    (by simpa [State.erased] using h.errExpect) (by simpa [State.erased] using mem_tail_lt h.busy)
  exact ⟨2 + n, _, hrun,
    { ready := hready
      cfg := by simp [State.erased]
      g := by simp [State.erased]
      cur := by simp [State.erased, State.eraseChunk]
      rem := by simp [State.erased, State.eraseChunk]
      mem := by simp [State.erased]
      trace := ⟨k, by simp [State.erased]⟩ }⟩

/-- The requests of an ERASE of `n` sectors of `sector` bytes from address `a` on (R187). -/
def eraseRequests (c : Config) (sector : Word) (a n : Nat) : List Xfer :=
  (List.range n).map fun k =>
    { cmd :=
        if sector = 65536 then frameErase64K c (BitVec.ofNat 24 (a + k * sector.toNat))
        else frameErase4K c (BitVec.ofNat 24 (a + k * sector.toNat))
      dir := .none, n := 0#32, wdata := [] }

theorem eraseRequests_succ (c : Config) (sector : Word) (a n : Nat) :
    eraseRequests c sector a (n + 1) =
      { cmd :=
          if sector = 65536 then frameErase64K c (BitVec.ofNat 24 a) else frameErase4K c (BitVec.ofNat 24 a)
        dir := .none, n := 0#32, wdata := [] } :: eraseRequests c sector (a + sector.toNat) n := by
  rw [eraseRequests, List.range_succ_eq_map, List.map_cons, List.map_map, Nat.zero_mul, Nat.add_zero]
  congr 1
  refine List.map_congr_left fun k _ => ?_
  simp only [Function.comp, Nat.succ_eq_add_one]
  rw [show a + (k + 1) * sector.toNat = a + sector.toNat + k * sector.toNat by rw [Nat.add_mul]; omega]

theorem eraseRequest_eq {a : Nat} (ha : s.cur = BitVec.ofNat 24 a) :
    s.eraseRequest =
      { cmd :=
          if s.g.sectorSize = 65536 then frameErase64K s.cfg (BitVec.ofNat 24 a)
          else frameErase4K s.cfg (BitVec.ofNat 24 a)
        dir := .none, n := 0#32, wdata := [] } := by
  rw [State.eraseRequest, ← ha]
  split <;> rfl

/-- `t` is the end of an ERASE from `s` of the addresses from `a` on. -/
structure EraseEnded (s : State) (a : Nat) (t : State) : Prop where
  fsm : t.fsm = .resp
  res : t.res = .ok none
  trace : ∃ more, t.trace = s.trace ++ more ∧ more.filter (fun q => q.dir == .none) =
    eraseRequests s.cfg s.g.sectorSize a (s.rem.toNat / s.g.sectorSize.toNat)
  cells : ∀ k, t.chip.mem.read k = if a ≤ k ∧ k < a + s.rem.toNat then 0xFF else s.chip.mem.read k

theorem EraseEnded.of_round {a : Nat} (hs : EraseReady s) (hr : s.rem ≠ 0#32) (ha : s.cur = BitVec.ofNat 24 a)
    (hcur : s.cur.toNat = a) (h : EraseRound s t) (hend : EraseEnded t (a + s.g.sectorSize.toNat) u) :
    EraseEnded s a u := by
  have hsector := hs.erasing.sector_le hr
  have ⟨_, hp, hm⟩ := hs.erasing
  obtain ⟨haligned, -⟩ := misaligned_eq_false_iff.mp hm
  have hpos := one_le_toNat_of_ne_zero (State.sectorSize_ne_zero_of_probed hs.inv.geometry hp)
  have hleft : t.rem.toNat = s.rem.toNat - s.g.sectorSize.toNat := by
    rw [h.rem]
    exact BitVec.toNat_sub_of_le hsector
  refine ⟨hend.fsm, hend.res, ?_, fun k => ?_⟩
  · obtain ⟨k, htrace⟩ := h.trace
    obtain ⟨more, hmore, hrequests⟩ := hend.trace
    refine ⟨s.eraseRequest :: List.replicate k (rdsrRequest s.cfg) ++ more,
      by rw [hmore, htrace, List.append_assoc], ?_⟩
    rw [List.cons_append, List.filter_cons_of_pos (by simp [eraseRequest_dir]), List.filter_append,
      rdsrRequests_filter _ _ _ (by decide), List.nil_append, hrequests, h.cfg, h.g, hleft, eraseRequest_eq ha,
      Nat.div_eq_sub_div hpos hsector, eraseRequests_succ]
  · rw [hend.cells k, h.mem, RefChip.erase_read hs.inv.memory.1, haligned, Nat.sub_zero, hcur, hleft]
    by_cases hfirst : a ≤ k ∧ k < a + s.g.sectorSize.toNat
    · rw [if_neg (by omega), if_pos hfirst, if_pos (by omega)]
      rfl
    · by_cases hrest : a + s.g.sectorSize.toNat ≤ k ∧ k < a + s.rem.toNat
      · rw [if_pos (by omega), if_pos (by omega)]
      · rw [if_neg (by omega), if_neg hfirst, if_neg (by omega)]

/-- An ERASE of the addresses from `a` on ends, by induction on what is left. `S.cur` is `a` until the last sector,
which may end at `2^24` (R21). -/
theorem erase_ends {a : Nat} (h : EraseReady s) (ha : s.cur = BitVec.ofNat 24 a) (hfits : a + s.rem.toNat ≤ 2 ^ 24) :
    ∃ n t, run n s = .next t ∧ EraseEnded s a t := by
  induction hm : s.rem.toNat using Nat.strong_induction_on generalizing s a with
  | _ m ih =>
  by_cases hr : s.rem = 0#32
  · refine ⟨1, _, run_one (step_erNext_of_done h.inv.config h.fsm hr), rfl, rfl,
      ⟨[], by simp, by simp [hr, eraseRequests]⟩, fun k => ?_⟩
    rw [hr]
    exact (if_neg (by simp)).symm
  · have hsector := h.erasing.sector_le hr
    have ⟨_, hp, _⟩ := h.erasing
    have hpos := one_le_toNat_of_ne_zero (State.sectorSize_ne_zero_of_probed h.inv.geometry hp)
    have hcur : s.cur.toNat = a := by
      rw [ha]
      exact Nat.mod_eq_of_lt (by omega)
    obtain ⟨n, t, ht, hround⟩ := h.round hr
    have hleft : t.rem.toNat = s.rem.toNat - s.g.sectorSize.toNat := by
      rw [hround.rem]
      exact BitVec.toNat_sub_of_le hsector
    obtain ⟨n', u, hu, hend⟩ := ih t.rem.toNat (by omega) hround.ready (a := a + s.g.sectorSize.toNat)
      (by rw [hround.cur, advanceAddr, hcur]) (by omega) rfl
    exact ⟨n + n', u, (run_add ht).trans hu, .of_round h hr ha hcur hround hend⟩

/-- Settles O57, by the induction over the sectors. -/
theorem eraseErasesExactlyItsSectors : Obligations.EraseErasesExactlyItsSectors := by
  intro s hi hf hr hfix herr hks hfits
  obtain ⟨n, t, ht, hend⟩ := erase_ends ⟨hi, hf, hr, hfix, herr, hks⟩ (by simp) hfits
  exact ⟨n, t, ht, hend.fsm, hend.res, hend.trace, hend.cells⟩

end Sys2Proof.Machine
end

section
/-! PROOF. The decoder and the encoder are inverse to each other (R70 to R79, R83), and the words of V-CMD and V-ENC. -/

namespace Sys2Proof

variable {c : Config} {i : Instr}

/-! Host command words: `op` selects the row of R71, the other two fields are kept whole. -/

@[simp] theorem decodeHost_hostWord_init (o : Addr) (l : Word) : decodeHost (hostWord 0b00 o l) = .init o l := by
  simp [decodeHost]

@[simp] theorem decodeHost_hostWord_read (o : Addr) (l : Word) : decodeHost (hostWord 0b01 o l) = .read o l := by
  simp [decodeHost]

@[simp] theorem decodeHost_hostWord_write (o : Addr) (l : Word) : decodeHost (hostWord 0b10 o l) = .write o l := by
  simp [decodeHost]

@[simp] theorem decodeHost_hostWord_erase (o : Addr) (l : Word) : decodeHost (hostWord 0b11 o l) = .erase o l := by
  simp [decodeHost]

/-- The last row of R71 is reached with the last value of `op` only. -/
theorem hostOp_eq_three {op : BitVec 2} (h0 : op ≠ 0b00) (h1 : op ≠ 0b01) (h2 : op ≠ 0b10) : op = 0b11 := by
  revert op
  decide

theorem encode_decodeHost (w : HostWord) : encode c (decodeHost w) = .host w := by
  have word_of_op {op : BitVec 2} (h : hostOp w = op) : hostWord op (hostOffset w) (hostLength w) = w :=
    h ▸ hostWord_fields w
  unfold decodeHost
  split_ifs with h0 h1 h2
  · exact congrArg Code.host (word_of_op h0)
  · exact congrArg Code.host (word_of_op h1)
  · exact congrArg Code.host (word_of_op h2)
  · exact congrArg Code.host (word_of_op (hostOp_eq_three h0 h1 h2))

/-! Command frames: the address bytes of a frame are those of the address decoded from it (R77). -/

@[simp] theorem enc4_joinAddr (opc b1 b2 b3 : Byte) : enc4 opc (joinAddr b1 b2 b3) = [opc, b1, b2, b3] := by
  simp [enc4]

@[simp] theorem enc5_joinAddr (opc b1 b2 b3 d : Byte) : enc5 opc (joinAddr b1 b2 b3) d = [opc, b1, b2, b3, d] := by
  simp [enc5]

/-- A frame the decoder accepts is the frame of the instruction read from it: of the decoder's branches the six
that accept are left, one for each row of R79. -/
theorem encode_of_decodeFrame {bs : List Byte} (h : decodeFrame c bs = .ok i) : encode c i = .frame bs := by
  revert h
  fun_cases decodeFrame c bs <;> rintro ⟨⟩
  · rfl
  · rfl
  · exact congrArg Code.frame (enc4_joinAddr c.opcProg ..)
  · exact congrArg Code.frame (enc4_joinAddr c.opcErase4K ..)
  · exact congrArg Code.frame (enc4_joinAddr c.opcErase64K ..)
  · exact congrArg Code.frame (enc5_joinAddr c.opcRead ..)

/-- Settles O49, by the row of the opcode table. -/
theorem decodeOfEncodeIsTheInstruction : Obligations.DecodeOfEncodeIsTheInstruction := by
  intro c i hc
  cases i with
  | init o l => exact congrArg Except.ok (decodeHost_hostWord_init o l)
  | read o l => exact congrArg Except.ok (decodeHost_hostWord_read o l)
  | write o l => exact congrArg Except.ok (decodeHost_hostWord_write o l)
  | erase o l => exact congrArg Except.ok (decodeHost_hostWord_erase o l)
  | ident => exact decodeFrame_frameIdent
  | fread a => exact decodeFrame_frameRead a
  | prog a => exact decodeFrame_frameProg a
  | erase4k a => exact decodeFrame_frameErase4K hc a
  | erase64k a => exact decodeFrame_frameErase64K hc a
  | rdsr => exact decodeFrame_frameRdsr hc

/-- Settles O50, by the level of the code (R2). -/
theorem encodeOfDecodeIsTheCode : Obligations.EncodeOfDecodeIsTheCode := by
  intro c code i h
  cases code with
  | host w =>
    cases h
    exact encode_decodeHost w
  | frame bs => exact encode_of_decodeFrame h

/-- Settles O2, by evaluating the decoder on each word. -/
theorem specWordsDecodeToTheirInstruction : Obligations.SpecWordsDecodeToTheirInstruction := by
  unfold Obligations.SpecWordsDecodeToTheirInstruction
  decide

end Sys2Proof
end

section
/-! PROOF. The issue of IDENT, of FREAD and of the erase frames by the instruction itself (R101, R102, R104, R105). -/

namespace Sys2Proof.Machine

variable {s : State}

theorem exec_ident_of_idle (hf : s.fsm = .idle) (hx : s.x = none) :
    exec .ident s = .next (s.issue .probeWait (identRequest s.cfg)) := by
  rw [exec, execIdent, frameStep_issue hx hf]

theorem exec_fread_of_rdNext (hf : s.fsm = .rdNext) (hx : s.x = none) (a : Addr) :
    exec (.fread a) s = .next (s.issue .rdWait (freadRequest s.cfg a s.chunk)) := by
  rw [exec, execFread, frameStep_issue hx hf]

/-- Settles O8, from the issue of IDENT and what INIT does while not probed. -/
theorem initIssuesTheIdentifyTransfer : Obligations.InitIssuesTheIdentifyTransfer := by
  intro s o l hf hg hx
  have hp : s.probed = false := Bool.eq_false_iff.mpr fun h => State.probed_iff.mp h hg
  exact ⟨exec_ident_of_idle hf hx, exec_init_of_unprobed hf hp hx⟩

/-- Settles O14, from the issue of FREAD. -/
theorem freadIsIssued : Obligations.FreadIsIssued :=
  fun _ a hf hx => exec_fread_of_rdNext hf hx a

/-- Settles O27, from the issue of either erase frame. -/
theorem eraseFramesAreIssued : Obligations.EraseFramesAreIssued :=
  fun _ a hf hx => ⟨exec_erase4k_of_erNext hf hx a, exec_erase64k_of_erNext hf hx a⟩

end Sys2Proof.Machine
end

section
/-! PROOF. INIT while probed (R126), and IDENT on a written `Ok` answer (R124, R125). -/

namespace Sys2Proof.Machine

/-- Settles O7, from what INIT does while probed. -/
theorem initWhenProbedReturnsTheStoredGeometry : Obligations.InitWhenProbedReturnsTheStoredGeometry :=
  fun _ _ _ hf hg => exec_init_of_probed hf (State.probed_iff.mpr hg)

variable {s : State} {q : Xfer} {r : List Byte} {rest : List Reply}

/-- A written identify response reaches the transition out of PROBE_WAIT, IDENT having no part of the chip's. -/
theorem exec_ident_of_ok (hf : s.fsm = .probeWait) (hx : s.x = some q) (hq : q.cmd = frameIdent s.cfg)
    (hr : s.replies = .answer (.ok r) :: rest) (hlen : r.length = q.answerLength) :
    exec .ident s = probeTaken (.ok r) (s.landed rest) :=
  (exec_ident_in_flight hf hx hq).trans (complete_of_lands (lands_ok_of_reading (fun _ => rfl) hr hlen))

theorem probeTaken_of_mfr_ne (h : manufacturerByte s.cfg r ≠ s.cfg.mfrExpected) :
    probeTaken (.ok r) s = .next (s.raise .geometryMismatch) := if_neg h

theorem probeTaken_of_mfr_eq (h : manufacturerByte s.cfg r = s.cfg.mfrExpected) :
    probeTaken (.ok r) s =
      .next ({ s with g := geometryOf s.cfg r }.respond (some (geometryOf s.cfg r))) := if_pos h

/-- Settles O10, from the wrong-manufacturer branch of `probeTaken`. -/
theorem wrongManufacturerRaisesGeometryMismatch : Obligations.WrongManufacturerRaisesGeometryMismatch :=
  fun s _ _ rest hf hx hq hr hlen hm =>
    (exec_ident_of_ok hf hx hq hr hlen).trans (probeTaken_of_mfr_ne (s := s.landed rest) hm)

/-- Settles O11, from the right-manufacturer branch of `probeTaken`: it writes `geometryOf` the response. -/
theorem rightManufacturerWritesTheGeometry : Obligations.RightManufacturerWritesTheGeometry := by
  intro s q r rest hf hx hq hr hlen hm
  have hexec := (exec_ident_of_ok hf hx hq hr hlen).trans (probeTaken_of_mfr_eq (s := s.landed rest) hm)
  exact ⟨_, hexec, rfl, rfl, rfl, rfl, rfl, rfl⟩

end Sys2Proof.Machine
end

section
/-! PROOF. READ's loop head (R142). -/

namespace Sys2Proof.Machine

/-- Settles O13: the chunk is `State.readChunk`, its range `State.readChunk_bounds`. -/
theorem readLoopHead : Obligations.ReadLoopHead := by
  intro s hc hf hx
  refine ⟨step_rdNext_of_done hc hf, fun hr => ?_⟩
  obtain ⟨hpos, hrem, hmax⟩ := State.readChunk_bounds hc hr
  exact ⟨s.readChunk, s.readChunk_toNat, hpos, hmax, hrem, step_rdNext_of_left hc hf hx hr⟩

end Sys2Proof.Machine
end

section
/-! PROOF. WRITE and ERASE while not probed (R168, R188, U1). -/

namespace Sys2Proof.Machine

variable {s : State} {o : Addr} {l : Word}

theorem State.probed_eq_false_iff : s.probed = false ↔ s.g.pageSize = 0#32 := bne_eq_false_iff_eq

theorem exec_write_of_unprobed (hf : s.fsm = .idle) (hp : s.probed = false) :
    exec (.write o l) s = .refused .notProbed := by
  simp [exec, execWrite, hf, hp]

theorem exec_erase_of_unprobed (hf : s.fsm = .idle) (hp : s.probed = false) :
    exec (.erase o l) s = .refused .notProbed := by
  simp [exec, execErase, hf, hp]

/-- Settles O18: a zero page size is a device not probed, and neither command gets past that test to its length. -/
theorem writeAndEraseAreRefusedUnprobed : Obligations.WriteAndEraseAreRefusedUnprobed := by
  intro s o l hf hg
  have hp : s.probed = false := State.probed_eq_false_iff.mpr hg
  exact ⟨exec_write_of_unprobed hf hp, exec_erase_of_unprobed hf hp⟩

end Sys2Proof.Machine
end

section
/-! PROOF. A misaligned ERASE from its presentation to AlignmentError (R182, R222), and ERASE's loop head (R183, R184). -/

namespace Sys2Proof.Machine

variable {s : State}

/-- The presentation of ERASE and its alignment check: two steps, of which neither issues a transfer. -/
theorem run_misaligned_erase {c : HostCmd} {rest : List HostCmd} {o : Addr} {l : Word} (hc : s.cfg.wf = true)
    (hp : s.probed = true) (hsector : s.g.sectorSize ≠ 0#32) (hf : s.fsm = .idle) (hcmds : s.cmds = c :: rest)
    (hword : decodeHost c.word = .erase o l)
    (hm : o.toNat % s.g.sectorSize.toNat ≠ 0 ∨ l.toNat % s.g.sectorSize.toNat ≠ 0) :
    run 2 s = .next (((s.present c rest).accept .erase o l .erCheck).raise .alignmentError) := by
  have haccept : step s = .next ((s.present c rest).accept .erase o l .erCheck) := by
    rw [step_idle_of_command hc hf hcmds, hword]
    exact exec_erase_of_idle hf hp
  have hcheck := (eraseChecksAlignment ((s.present c rest).accept .erase o l .erCheck) hc rfl hsector).1 hm
  exact run_two haccept hcheck

/-- Settles O25, from the two steps; a probed geometry has a sector size (R16), and the slot is empty in IDLE (R26). -/
theorem misalignedEraseIssuesNoTransfer : Obligations.MisalignedEraseIssuesNoTransfer := by
  intro s c rest o l hi hp hf hcmds hword hm
  have hsector := State.sectorSize_ne_zero_of_probed hi.geometry hp
  have hx : s.x = none := hi.slot_empty (hf ▸ rfl)
  exact ⟨_, run_misaligned_erase hi.config hp hsector hf hcmds hword hm, rfl, rfl, rfl, hx, rfl, rfl, rfl⟩

theorem eraseRequest_of_large (h : s.g.sectorSize = sectorLarge) : s.eraseRequest = erase64kRequest s.cfg s.cur :=
  if_pos h

theorem eraseRequest_of_small (h : s.g.sectorSize = sectorSmall) : s.eraseRequest = erase4kRequest s.cfg s.cur :=
  if_neg (by rw [h]; decide)

/-- Settles O26: the request is `State.eraseRequest`, by the two sector sizes. -/
theorem eraseLoopHead : Obligations.EraseLoopHead := by
  intro s hc hf hx hsize
  refine ⟨step_erNext_of_done hc hf, fun hr => ?_⟩
  have hstep := step_erNext_of_left hc hf hx hr
  rcases hsize with hsmall | hlarge
  · rw [eraseRequest_of_small hsmall] at hstep
    exact ⟨erase4kRequest s.cfg s.cur, rfl, rfl, rfl, fun hlarge => absurd (hsmall.symm.trans hlarge) (by decide),
      fun _ => rfl, hstep⟩
  · rw [eraseRequest_of_large hlarge] at hstep
    exact ⟨erase64kRequest s.cfg s.cur, rfl, rfl, rfl, fun _ => rfl,
      fun hsmall => absurd (hlarge.symm.trans hsmall) (by decide), hstep⟩

end Sys2Proof.Machine
end


section
/-! PROOF. A status read by RDSR itself and the ready test: the issue in POLL_ISSUE, and the three transitions out of
POLL_WAIT on a written status byte (R202, R204 to R207). -/

namespace Sys2Proof.Machine

variable {s : State}

theorem exec_rdsr_of_pollIssue (hf : s.fsm = .pollIssue) (hx : s.x = none) :
    exec .rdsr s = .next (s.issue .pollWait (rdsrRequest s.cfg)) := by
  rw [exec, execRdsr, frameStep_issue hx hf]

/-- Settles O29, from the issue of RDSR: the sequencer's step in POLL_ISSUE is the same issue. -/
theorem pollIssuesAStatusRead : Obligations.PollIssuesAStatusRead :=
  fun _ hf hx =>
    have hexec := exec_rdsr_of_pollIssue hf hx
    ⟨hexec, fun hc => (step_pollIssue hc hf hx).trans hexec.symm⟩

/-! The ready test. -/

section
variable {c : Config} {b b' : Byte}

theorem ready_program_iff : ready c .program b = true ↔ b &&& c.busyMask = 0#8 := beq_iff_eq

theorem ready_erase_iff :
    ready c .erase b = true ↔ b &&& c.busyMask = 0#8 ∧ b &&& c.errMask = c.errExpect :=
  Bool.and_eq_true_iff.trans (and_congr beq_iff_eq beq_iff_eq)

/-- Without an error flag its expected state is 0 (R8). -/
theorem Config.errExpect_of_no_errMask (h : c.wf = true) (hm : c.errMask = 0#8) : c.errExpect = 0#8 := by
  have hbits : (c.errExpect &&& ~~~c.errMask == 0#8) = true := Config.constraint_of_wf h (by simp [Config.constraints])
  rw [hm] at hbits
  exact BitVec.and_allOnes.symm.trans (beq_iff_eq.mp hbits)

theorem ready_erase_of_no_errMask (h : c.wf = true) (hm : c.errMask = 0#8) : ready c .erase b = ready c .program b := by
  simp [ready, errAsExpected, hm, Config.errExpect_of_no_errMask h hm]

theorem or_and_self_mask (m m' : Byte) : (m ||| m') &&& m = m := by
  ext i hi
  rw [BitVec.getElem_and, BitVec.getElem_or]
  cases m[i] <;> simp

/-- Bytes that agree under two masks together agree under the first. -/
theorem and_eq_and_of_or_mask {m m' : Byte} (h : b &&& (m ||| m') = b' &&& (m ||| m')) : b &&& m = b' &&& m := by
  rw [← or_and_self_mask m m', ← BitVec.and_assoc, h, BitVec.and_assoc]

theorem ready_congr (p : PollClass) (hbusy : b &&& c.busyMask = b' &&& c.busyMask)
    (herr : b &&& c.errMask = b' &&& c.errMask) : ready c p b = ready c p b' := by
  cases p <;> simp only [ready, busyClear, errAsExpected, hbusy, herr]

end

/-- Settles O31: each class by the bits that its test masks out. -/
theorem readyTestReadsOnlyItsBits : Obligations.ReadyTestReadsOnlyItsBits := by
  intro c p b b' hc
  refine ⟨ready_program_iff, ready_erase_iff, ready_erase_of_no_errMask hc, fun h => ?_⟩
  exact ready_congr p (and_eq_and_of_or_mask h) (and_eq_and_of_or_mask (by rwa [BitVec.or_comm] at h))

/-! The completion of a status read by a written answer. -/

theorem pollTaken_of_exhausted {r : List Byte} (h : ready s.cfg s.pclass (statusByte r) = false)
    (hctr : s.ctr - 1#32 = 0#32) :
    pollTaken (.ok r) s = .next ({ s with ctr := 0#32 }.inFlightUnknown.raise s.pclass.timeout) := by
  rw [pollTaken, h, if_neg Bool.false_ne_true, State.pollAgain, if_pos hctr, hctr]

section
variable {q : Xfer} {b : Byte} {rest : List Reply} (hf : s.fsm = .pollWait) (hx : s.x = some q)
  (hq : q.cmd = frameRdsr s.cfg) (hlen : q.answerLength = 1) (hr : s.replies = .answer (.ok [b]) :: rest)
include hf hx hq hlen hr

theorem exec_rdsr_of_ok :
    ∃ c n, exec .rdsr s = pollTaken (.ok [b]) ((s.landed rest).withChip c n) := by
  obtain ⟨c, n, hchip⟩ := (s.landed rest).perform_eq (does := RefChip.status s.cfg.busyMask) busyUnknown_eq
  refine ⟨c, n, ?_⟩
  rw [← hchip]
  exact (exec_rdsr_in_flight hf hx hq).trans (complete_of_lands (.ok [b] rest hr hlen.symm))

theorem exec_rdsr_of_ready (h : ready s.cfg s.pclass b = true) :
    ∃ c n, exec .rdsr s = .next ((s.landed rest).withChip c n).pollDone := by
  obtain ⟨c, n, hexec⟩ := exec_rdsr_of_ok hf hx hq hlen hr
  exact ⟨c, n, hexec.trans (pollTaken_of_ready (s := (s.landed rest).withChip c n) h)⟩

theorem exec_rdsr_of_budget_left (h : ready s.cfg s.pclass b = false) (hctr : s.ctr - 1#32 ≠ 0#32) :
    ∃ c n, exec .rdsr s =
      .next { (s.landed rest).withChip c n with ctr := s.ctr - 1#32, fsm := .pollIssue } := by
  obtain ⟨c, n, hexec⟩ := exec_rdsr_of_ok hf hx hq hlen hr
  exact ⟨c, n, hexec.trans (pollTaken_of_budget_left (s := (s.landed rest).withChip c n) h hctr)⟩

theorem exec_rdsr_of_exhausted (h : ready s.cfg s.pclass b = false) (hctr : s.ctr - 1#32 = 0#32) :
    ∃ c n, exec .rdsr s =
      .next ({ (s.landed rest).withChip c n with ctr := 0#32 }.raise s.pclass.timeout) := by
  obtain ⟨c, n, hexec⟩ := exec_rdsr_of_ok hf hx hq hlen hr
  rw [pollTaken_of_exhausted (s := (s.landed rest).withChip c n) (r := [b]) h hctr, State.inFlightUnknown_eq] at hexec
  exact ⟨_, _, hexec⟩

end

/-- Settles O32: Done by either class, the address of the advance modulo `2^24`. -/
theorem readyStatusEndsThePollWithDone : Obligations.ReadyStatusEndsThePollWithDone := by
  intro s q b rest hf hx hq hlen hr h
  obtain ⟨c, n, hexec⟩ := exec_rdsr_of_ready hf hx hq hlen hr h
  refine ⟨advanceAddr s.cur s.chunk, { c with conduct := c.conduct.afterDone }, n, BitVec.toNat_ofNat _ _,
    fun hp => ?_, fun hp => ?_⟩
  · rw [hexec, State.pollDone_of_program (s := (s.landed rest).withChip c n) hp]
    rfl
  · rw [hexec, State.pollDone_of_erase (s := (s.landed rest).withChip c n) hp]
    rfl

/-- Settles O33, from the branch of the poll with budget left. -/
theorem notReadyStatusCountsDown : Obligations.NotReadyStatusCountsDown :=
  fun _ _ _ _ hf hx hq hlen hr h hctr => exec_rdsr_of_budget_left hf hx hq hlen hr h hctr

/-- Settles O34, from the branch of the poll with the budget used up, by the timeout of either class. -/
theorem exhaustedPollRaisesTheTimeoutOfItsClass : Obligations.ExhaustedPollRaisesTheTimeoutOfItsClass := by
  intro s q b rest hf hx hq hlen hr h hctr
  obtain ⟨c, n, hexec⟩ := exec_rdsr_of_exhausted hf hx hq hlen hr h hctr
  refine ⟨c, n, fun hp => ?_, fun hp => ?_⟩
  · rw [hexec, show s.pclass.timeout = .programTimeout by rw [hp]; rfl]
    rfl
  · rw [hexec, show s.pclass.timeout = .eraseTimeout by rw [hp]; rfl]
    rfl

end Sys2Proof.Machine
end

section
/-! PROOF. The exact bound of a poll whose status reads are answered as written (R208): by induction over the bytes that
are not ready the poll is back in POLL_ISSUE, and the read after them ends it. -/

namespace Sys2Proof.Machine

variable {s t u : State} {rest : List Reply}

/-- The answers of the transport to a poll that reads the bytes `bs`. -/
abbrev statusReplies (bs : List Byte) : List Reply := bs.map fun b => .answer (.ok [b])

/-- The issue of a status read and its completion. -/
theorem run_rdsr (hc : s.cfg.wf = true) (hf : s.fsm = .pollIssue) (hx : s.x = none)
    (h : exec .rdsr (s.issue .pollWait (rdsrRequest s.cfg)) = .next t) : run 2 s = .next t :=
  have hdone := step_in_flight (s := s.issue .pollWait (rdsrRequest s.cfg)) hc rfl rfl (decodeFrame_frameRdsr hc)
  run_two (step_pollIssue hc hf hx) (hdone.trans h)

/-- `t` is `s`, a poll about to read, after `k` reads that were not ready, with the replies `rest` to come. -/
structure PollCounted (s : State) (k : Nat) (rest : List Reply) (t : State) : Prop where
  cfg : t.cfg = s.cfg
  pclass : t.pclass = s.pclass
  fsm : t.fsm = .pollIssue
  slot : t.x = none
  ctr : t.ctr.toNat = s.ctr.toNat - k
  replies : t.replies = rest
  trace : t.trace = s.trace ++ List.replicate k (rdsrRequest s.cfg)

theorem PollCounted.trans {k m : Nat} {more : List Reply} (h : PollCounted s k more t) (h' : PollCounted t m rest u) :
    PollCounted s (k + m) rest u where
  cfg := h'.cfg.trans h.cfg
  pclass := h'.pclass.trans h.pclass
  fsm := h'.fsm
  slot := h'.slot
  ctr := by rw [h'.ctr, h.ctr, Nat.sub_sub]
  replies := h'.replies
  trace := by rw [h'.trace, h.trace, h.cfg, List.append_assoc, ← List.replicate_add]

/-- One read that is not ready, with budget left for another. -/
theorem run_not_ready {b : Byte} (hc : s.cfg.wf = true) (hf : s.fsm = .pollIssue) (hx : s.x = none)
    (hr : s.replies = .answer (.ok [b]) :: rest) (h : ready s.cfg s.pclass b = false) (hctr : 1 < s.ctr.toNat) :
    ∃ t, run 2 s = .next t ∧ PollCounted s 1 rest t := by
  have hsub : (s.ctr - 1#32).toNat = s.ctr.toNat - 1 := BitVec.toNat_sub_of_le hctr.le
  have hleft : s.ctr - 1#32 ≠ 0#32 := fun h0 => by simp [h0] at hsub; omega
  obtain ⟨c, n, hexec⟩ :=
    exec_rdsr_of_budget_left (s := s.issue .pollWait (rdsrRequest s.cfg)) rfl rfl rfl rfl hr h hleft
  exact ⟨_, run_rdsr hc hf hx hexec, rfl, rfl, rfl, rfl, hsub, rfl, rfl⟩

theorem run_all_not_ready {bs : List Byte} (hc : s.cfg.wf = true) (hf : s.fsm = .pollIssue) (hx : s.x = none)
    (hr : s.replies = statusReplies bs ++ rest) (h : ∀ b ∈ bs, ready s.cfg s.pclass b = false)
    (hctr : bs.length < s.ctr.toNat) : ∃ t, run (2 * bs.length) s = .next t ∧ PollCounted s bs.length rest t := by
  induction bs generalizing s with
  | nil => exact ⟨s, rfl, rfl, rfl, hf, hx, rfl, hr, by simp⟩
  | cons b bs ih =>
    obtain ⟨hb, hbs⟩ := List.forall_mem_cons.mp h
    rw [List.length_cons] at hctr
    obtain ⟨t, ht, hone⟩ := run_not_ready hc hf hx hr hb (by omega)
    obtain ⟨u, hu, hmore⟩ := ih (hone.cfg ▸ hc) hone.fsm hone.slot hone.replies (by rwa [hone.cfg, hone.pclass])
      (by rw [hone.ctr]; omega)
    rw [List.length_cons, Nat.add_comm, Nat.mul_add]
    exact ⟨u, (run_add ht).trans hu, hone.trans hmore⟩

/-- The read after `k` that were not ready. -/
theorem run_last_read {k : Nat} (hc : s.cfg.wf = true) (hrun : run (2 * k) s = .next t)
    (h : PollCounted s k rest t) (hexec : exec .rdsr (t.issue .pollWait (rdsrRequest t.cfg)) = .next u) :
    run (2 * (k + 1)) s = .next u :=
  (run_add hrun).trans (run_rdsr (h.cfg ▸ hc) h.fsm h.slot hexec)

theorem PollCounted.trace_issue {k : Nat} (h : PollCounted s k rest t) :
    (t.issue .pollWait (rdsrRequest t.cfg)).trace = s.trace ++ List.replicate (k + 1) (rdsrRequest s.cfg) := by
  rw [State.issue_trace, h.trace, h.cfg, List.append_assoc, ← List.replicate_succ']

theorem poll_times_out {bs : List Byte} {b : Byte} (hc : s.cfg.wf = true) (hf : s.fsm = .pollIssue) (hx : s.x = none)
    (hr : s.replies = statusReplies (bs ++ [b]) ++ rest) (h : ∀ b' ∈ bs ++ [b], ready s.cfg s.pclass b' = false)
    (hctr : bs.length + 1 = s.ctr.toNat) :
    ∃ t, run (2 * (bs.length + 1)) s = .next t ∧ t.fsm = .resp ∧ t.ctr = 0#32 ∧ t.replies = rest ∧
      t.res = .error s.pclass.timeout ∧ t.trace = s.trace ++ List.replicate (bs.length + 1) (rdsrRequest s.cfg) := by
  obtain ⟨hbs, hb⟩ := List.forall_mem_append.mp h
  obtain ⟨t, ht, hcount⟩ := run_all_not_ready hc hf hx (by simpa using hr) hbs (by omega)
  have hlast : t.ctr = 1#32 := BitVec.eq_of_toNat_eq (by rw [hcount.ctr, ← hctr, Nat.add_sub_cancel_left]; rfl)
  obtain ⟨c, n, hexec⟩ := exec_rdsr_of_exhausted (s := t.issue .pollWait (rdsrRequest t.cfg)) rfl rfl rfl rfl
    hcount.replies (by simpa [hcount.cfg, hcount.pclass] using hb) (by simp [hlast])
  refine ⟨_, run_last_read hc ht hcount hexec, rfl, rfl, rfl, ?_, hcount.trace_issue⟩
  rw [State.raise_res, State.issue_pclass, hcount.pclass]

theorem poll_done {bs : List Byte} {b : Byte} (hc : s.cfg.wf = true) (hf : s.fsm = .pollIssue) (hx : s.x = none)
    (hr : s.replies = statusReplies (bs ++ [b]) ++ rest) (h : ∀ b' ∈ bs, ready s.cfg s.pclass b' = false)
    (hb : ready s.cfg s.pclass b = true) (hctr : bs.length < s.ctr.toNat) :
    ∃ t : State, run (2 * (bs.length + 1)) s = .next t.pollDone ∧ t.pclass = s.pclass ∧
      t.ctr.toNat = s.ctr.toNat - bs.length ∧ t.replies = rest ∧
      t.trace = s.trace ++ List.replicate (bs.length + 1) (rdsrRequest s.cfg) := by
  obtain ⟨t, ht, hcount⟩ := run_all_not_ready hc hf hx (by simpa using hr) h hctr
  obtain ⟨c, n, hexec⟩ := exec_rdsr_of_ready (s := t.issue .pollWait (rdsrRequest t.cfg)) rfl rfl rfl rfl
    hcount.replies (by simpa [hcount.cfg, hcount.pclass] using hb)
  exact ⟨_, run_last_read hc ht hcount hexec, hcount.pclass, hcount.ctr, rfl, hcount.trace_issue⟩

/-- Settles O54: the reads that are not ready by induction, then the last one, which uses the budget up or is ready. -/
theorem pollMakesExactlyBudgetManyReads : Obligations.PollMakesExactlyBudgetManyReads := by
  intro s bs rest hc hf hx h
  refine ⟨fun hpos hlen hr => ?_, fun b hlen hb hr => ?_⟩
  · obtain ⟨bs, b, rfl⟩ : ∃ bs' b, bs = bs' ++ [b] :=
      (List.eq_nil_or_concat' bs).resolve_left (List.ne_nil_of_length_pos hpos)
    rw [List.length_append, List.length_singleton] at hlen ⊢
    obtain ⟨t, ht, hend, hctr, hreplies, hres, htrace⟩ := poll_times_out hc hf hx hr h hlen
    exact ⟨t, ht, hend, hctr, hreplies, by rw [hres]; cases s.pclass <;> rfl, htrace⟩
  · obtain ⟨t, ht, hclass, hctr, hreplies, htrace⟩ := poll_done hc hf hx hr h hb hlen
    refine ⟨t.pollDone, ht, ?_, by simpa using hctr, by simpa using hreplies, by simpa using htrace⟩
    cases hp : s.pclass
    · rw [State.pollDone_of_program (hclass.trans hp)]
      rfl
    · rw [State.pollDone_of_erase (hclass.trans hp)]
      rfl

end Sys2Proof.Machine
end

section
/-! PROOF. The command port outside IDLE (R233), and the step that gives the result to the host (R232). -/

namespace Sys2Proof.Machine

/-- Settles O6: each host command tests for IDLE first, and outside it waits. -/
theorem hostCommandOutsideIdleHasNoEffect : Obligations.HostCommandOutsideIdleHasNoEffect := by
  intro i s hlevel hf
  cases i with
  | init | read | write | erase => exact if_neg hf
  | ident | fread | prog | erase4k | erase64k | rdsr => cases hlevel

/-- One step as a run, whatever it answers. -/
theorem run_one_eq_step (s : State) : run 1 s = step s := by
  rw [run]
  cases step s <;> rfl

/-- Settles O35: the result is taken in RESP, and in the IDLE that follows the next command is presented. -/
theorem takingTheResultReturnsToIdle : Obligations.TakingTheResultReturnsToIdle := by
  intro s hc hf
  have htake : step s = .next s.takeResult := step_resp hc hf
  refine ⟨htake, fun c rest hcmds => ?_⟩
  have hpresent : step s.takeResult = exec (decodeHost c.word) (s.takeResult.present c rest) :=
    step_idle_of_command (s := s.takeResult) hc rfl hcmds
  exact (run_succ htake).trans ((run_one_eq_step _).trans hpresent)

end Sys2Proof.Machine
end
